-- ==== Sys2Proof/Word.lean ====
section
/-! DEFINITION. The widths and the small closed vocabularies of COFRE-LOCK: µop words, bytes, rows, columns,
keys, the operand kinds of the formats of 30_encoding.md R71. -/

namespace Sys2Proof

/-- A µop word `w[15:0]` (30 R70). -/
abbrev Word := BitVec 16

/-- A character of the code buffer or of a table (20 R50, R51; 30 R79). -/
abbrev Byte := BitVec 8

/-- A keypad row index 0..3 (00 R6 `N_ROWS`, 30 R73). -/
abbrev Row := Fin 4

/-- A keypad column index 0..2 (00 R6 `N_COLS`). -/
abbrev Col := Fin 3

/-- A key of the keypad, (row, column) (10 R35). -/
abbrev Key := Row × Col

/-- A LockState code as `ls` and SETST hold it, 2 bits (10 R20, 30 R78). -/
abbrev LockCode := BitVec 2

/-- LockState Locked (10 R21, 30 R78). -/
abbrev LockCode.locked : LockCode := 0#2

/-- LockState EnteringCode (10 R21, 30 R78). -/
abbrev LockCode.entering : LockCode := 1#2

/-- LockState Unlocked (10 R21, 30 R78). -/
abbrev LockCode.unlocked : LockCode := 2#2

/-- The reserved LockState code (10 R21, 30 R78). -/
abbrev LockCode.reserved : LockCode := 3#2

/-- The no-key sentinel NOKEY = 0x00 (00 R6, 30 R79). -/
abbrev noKey : Byte := 0#8

/-- The operand of WAIT: which delay (30 R71 format W, R73). -/
inductive WaitKind where
  | settle
  | flash
deriving DecidableEq, Repr

/-- The operand `pin` of PINW: which indicator (30 R71 format P, R73). -/
inductive Pin where
  | red
  | green
deriving DecidableEq, Repr

end Sys2Proof
end

