-- ==== Sys2Proof/Syntax.lean ====
section
/-! DEFINITION. The µops, one constructor per row of spec/opcode_table.json (30_encoding.md R72). -/

namespace Sys2Proof

/-- A µop with its operands (30 R71 to R73, R81). `setst` and `bufapp` carry their whole field; the two field
values 30 R75 calls illegal are refused by `Instr.wellFormed`. -/
inductive Instr where
  /-- TICK, the timer's comparison-match handler (40 R100). -/
  | tick
  /-- EDGE, the button's falling-edge handler (41 R110). -/
  | edge
  /-- DISP, start one main-loop iteration (44 R170). -/
  | disp
  /-- ROWDRV r, drive row r low (42 R125). -/
  | rowdrv (r : Row)
  /-- ROWREL r, restore row r high (42 R129). -/
  | rowrel (r : Row)
  /-- WAIT SETTLE or WAIT FLASH (42 R126). -/
  | wait (kind : WaitKind)
  /-- SAMPLE r, sample the columns while row r is low (42 R127). -/
  | sample (r : Row)
  /-- RWAIT r, the release wait (42 R128). -/
  | rwait (r : Row)
  /-- ACT LOCKED (`true`) or ACT UNLOCKED (`false`) (43 R150). -/
  | act (locked : Bool)
  /-- PINW pin, v (43 R151). -/
  | pinw (pin : Pin) (v : Bool)
  /-- BUFCLR, clear the code buffer (44 R173). -/
  | bufclr
  /-- BUFAPP k, append a character (44 R174). -/
  | bufapp (k : Byte)
  /-- CMP, compare the buffer with the reference code (44 R175). -/
  | cmp
  /-- SETST s, write the lock state (44 R176). -/
  | setst (s : LockCode)
  /-- PCLR, consume the button event (44 R177). -/
  | pclr
deriving DecidableEq, Repr

end Sys2Proof
end

