-- ==== Sys2Proof/WellFormed.lean ====
section
/-! DEFINITION. Which µop terms have a legal word (30_encoding.md R75, R83), and which of them belong to the
interrupt handlers (R72's agent column). -/

namespace Sys2Proof

/-- The two value restrictions of 30 R75: no SETST 3, no BUFAPP of NOKEY. -/
def Instr.wellFormed : Instr → Bool
  | .setst s => s != LockCode.reserved
  | .bufapp k => k != noKey
  | _ => true

/-- The agent column of 30 R72: TICK and EDGE are ISR's, every other µop is MAIN's. -/
def Instr.isHandler : Instr → Bool
  | .tick => true
  | .edge => true
  | _ => false

end Sys2Proof
end

