-- ==== Sys2Proof/Decode.lean ====
section
/-! DEFINITION. The decoder and the encoder of µop words (30_encoding.md R70 to R75, R83), and the assembler
spelling of a µop (R81). -/

namespace Sys2Proof

/-- Why a word spells no µop (30 R74, R75): the verdict `illegal`, with its ground by name. -/
inductive Illegal where
  /-- `OP = 0x0`. -/
  | reservedOpcode
  /-- A bit that R71 marks reserved is 1. -/
  | reservedBits
  /-- SETST with `s = 3`. -/
  | reservedState
  /-- BUFAPP with `k = 0x00`. -/
  | noKeyCharacter
deriving DecidableEq, Repr

/-- R74: `i` if no bit of `w` under the mask `reserved` is set. -/
def ifReservedClear (w reserved : Word) (i : Instr) : Except Illegal Instr :=
  if w &&& reserved = 0#16 then .ok i else .error .reservedBits

/-- R73: the row operand `r = w[1:0]`. -/
def rowField (w : Word) : Row := Fin.ofNat 4 w.toNat

/-- R73: the operand `kind = w[0]`, 0 SETTLE, 1 FLASH. -/
def kindField (w : Word) : WaitKind := if w.getLsbD 0 then .flash else .settle

/-- R73: the operand `pin = w[1]`, 0 RED, 1 GREEN. -/
def pinField (w : Word) : Pin := if w.getLsbD 1 then .green else .red

/-- R73: the character operand `k = w[7:0]`. -/
def charField (w : Word) : Byte := w.extractLsb' 0 8

/-- R73: the LockState operand `s = w[1:0]`. -/
def stateField (w : Word) : LockCode := w.extractLsb' 0 2

/-- The decoder of R72 to R75: total, and an illegal word is refused by name. -/
def decode (w : Word) : Except Illegal Instr :=
  match (w.extractLsb' 12 4).toNat with
  | 0x1 => ifReservedClear w 0x0FFF#16 .tick
  | 0x2 => ifReservedClear w 0x0FFF#16 .edge
  | 0x3 => ifReservedClear w 0x0FFF#16 .disp
  | 0x4 => ifReservedClear w 0x0FFC#16 (.rowdrv (rowField w))
  | 0x5 => ifReservedClear w 0x0FFC#16 (.rowrel (rowField w))
  | 0x6 => ifReservedClear w 0x0FFE#16 (.wait (kindField w))
  | 0x7 => ifReservedClear w 0x0FFC#16 (.sample (rowField w))
  | 0x8 => ifReservedClear w 0x0FFC#16 (.rwait (rowField w))
  | 0x9 => ifReservedClear w 0x0FFE#16 (.act (w.getLsbD 0))
  | 0xA => ifReservedClear w 0x0FFC#16 (.pinw (pinField w) (w.getLsbD 0))
  | 0xB => ifReservedClear w 0x0FFF#16 .bufclr
  | 0xC =>
    if charField w = noKey ∧ w &&& 0x0F00#16 = 0#16 then .error .noKeyCharacter
    else ifReservedClear w 0x0F00#16 (.bufapp (charField w))
  | 0xD => ifReservedClear w 0x0FFF#16 .cmp
  | 0xE =>
    if stateField w = LockCode.reserved ∧ w &&& 0x0FFC#16 = 0#16 then .error .reservedState
    else ifReservedClear w 0x0FFC#16 (.setst (stateField w))
  | 0xF => ifReservedClear w 0x0FFF#16 .pclr
  | _ => .error .reservedOpcode

/-- The instruction read from `nbits` bits whose value is `w`, numbered as spec/opcode_table.json numbers them: a
µop is one 16-bit word (R70), so its bits are the 16 low bits, and bits the table does not give are 0. -/
def decodeTableWord (nbits w : Nat) : Option Instr :=
  match decode (BitVec.ofNat 16 (w % 2 ^ nbits)) with
  | .ok i => some i
  | .error _ => none

/-- R71, R73: the bit of a WAIT kind. -/
def WaitKind.bit : WaitKind → BitVec 1
  | .settle => 0#1
  | .flash => 1#1

/-- R71, R73: the bit of a PINW pin. -/
def Pin.bit : Pin → BitVec 1
  | .red => 0#1
  | .green => 1#1

/-- The word of a µop, written from the formats of R71 and the opcode map of R72. -/
def encode : Instr → Word
  | .tick => 0x1#4 ++ 0#12
  | .edge => 0x2#4 ++ 0#12
  | .disp => 0x3#4 ++ 0#12
  | .rowdrv r => 0x4#4 ++ 0#10 ++ BitVec.ofNat 2 r.val
  | .rowrel r => 0x5#4 ++ 0#10 ++ BitVec.ofNat 2 r.val
  | .wait kind => 0x6#4 ++ 0#11 ++ kind.bit
  | .sample r => 0x7#4 ++ 0#10 ++ BitVec.ofNat 2 r.val
  | .rwait r => 0x8#4 ++ 0#10 ++ BitVec.ofNat 2 r.val
  | .act locked => 0x9#4 ++ 0#11 ++ BitVec.ofBool locked
  | .pinw pin v => 0xA#4 ++ 0#10 ++ pin.bit ++ BitVec.ofBool v
  | .bufclr => 0xB#4 ++ 0#12
  | .bufapp k => 0xC#4 ++ 0#4 ++ k
  | .cmp => 0xD#4 ++ 0#12
  | .setst s => 0xE#4 ++ 0#10 ++ s
  | .pclr => 0xF#4 ++ 0#12

/-- One hexadecimal digit, upper case. -/
def hexDigit (n : Nat) : String :=
  match n with
  | 0 => "0" | 1 => "1" | 2 => "2" | 3 => "3" | 4 => "4" | 5 => "5" | 6 => "6" | 7 => "7"
  | 8 => "8" | 9 => "9" | 10 => "A" | 11 => "B" | 12 => "C" | 13 => "D" | 14 => "E" | _ => "F"

/-- R81: a row operand is a decimal 0..3. -/
def rowText (r : Row) : String := hexDigit r.val

/-- R81: a level operand, 0 or 1. -/
def levelText (v : Bool) : String := if v then "1" else "0"

/-- R81: the name of a LockState operand; the reserved code has none and is written as a number. -/
def stateText (s : LockCode) : String :=
  match s.toNat with
  | 0 => "LOCKED"
  | 1 => "ENTERING"
  | 2 => "UNLOCKED"
  | _ => "3"

/-- The assembler spelling of R81; of BUFAPP's two spellings the hexadecimal one. -/
def asmText : Instr → String
  | .tick => "TICK"
  | .edge => "EDGE"
  | .disp => "DISP"
  | .rowdrv r => "ROWDRV " ++ rowText r
  | .rowrel r => "ROWREL " ++ rowText r
  | .wait .settle => "WAIT SETTLE"
  | .wait .flash => "WAIT FLASH"
  | .sample r => "SAMPLE " ++ rowText r
  | .rwait r => "RWAIT " ++ rowText r
  | .act locked => if locked then "ACT LOCKED" else "ACT UNLOCKED"
  | .pinw .red v => "PINW RED, " ++ levelText v
  | .pinw .green v => "PINW GREEN, " ++ levelText v
  | .bufclr => "BUFCLR"
  | .bufapp k => "BUFAPP 0x" ++ hexDigit (k.toNat / 16) ++ hexDigit (k.toNat % 16)
  | .cmp => "CMP"
  | .setst s => "SETST " ++ stateText s
  | .pclr => "PCLR"

end Sys2Proof
end

