-- ==== Sys2Proof/Config.lean ====
section
/-! DEFINITION. What a configuration fixes (00_scope.md R6, 10_state.md R36), the turns a schedule is made of
(00 R5, 10 R35), and the free values: constants with no body, so that nothing can be proved of their value. -/

namespace Sys2Proof

/-- BTN_IN_ENTRY, the field CFG_BTN: what DISP does with a pending button event in EnteringCode (00 R6, 10 R36). -/
inductive BtnInEntry where
  /-- CFG_BTN = 0: DISP leaves `pend` as it is. -/
  | retain
  /-- CFG_BTN = 1: DISP enqueues a PCLR before the scan. -/
  | discard
deriving DecidableEq, Repr

/-- A time or a length of time in milliseconds. DESIGN CHOICE: a rational number; the spec says only that the times are
positive and leaves their resolution open (log 25). -/
abbrev Time := Rat

/-- The control registers of 10 R36, all read-only and fixed from reset (00 R7). The block's state never changes
them; they stand in State so that a statement about every state is about every configuration (log 1). -/
structure CfgRegs where
  /-- CFG_REF: byte i at bits [8i+7:8i], byte 0 the first key. -/
  ref : BitVec 32
  /-- CFG_KEYMAP: byte 3r+c at bits [8(3r+c)+7 : 8(3r+c)]. -/
  keymap : BitVec 96
  /-- CFG_GUARD. -/
  guard : BitVec 8
  /-- CFG_DUTY_L. -/
  dutyLocked : BitVec 16
  /-- CFG_DUTY_U. -/
  dutyUnlocked : BitVec 16
  /-- CFG_BTN. -/
  btn : BtnInEntry
  /-- CFG_TICK, in milliseconds, any rational number (log 25); timed refinement only (70 R247). -/
  tickMs : Time
  /-- CFG_SETTLE, in milliseconds, any rational number (log 25); timed refinement only. -/
  settleMs : Time
  /-- CFG_FLASH, in milliseconds, any rational number (log 25); timed refinement only. -/
  flashMs : Time
deriving DecidableEq, Repr

/-- A turn of one agent (00 R5, 10 R35, 60 R216). -/
inductive Action where
  /-- MAIN performs the µop its phase names (10 R28), unless it is held (00 R10). -/
  | main
  /-- ENV lets the timer fire: one TICK step of ISR (10 R35). -/
  | tick
  /-- ENV produces a falling edge of the button line: one EDGE step of ISR (10 R35, 41 R111). -/
  | edge
  /-- ENV closes a key (10 R35). -/
  | press (k : Key)
  /-- ENV opens a key (10 R35). -/
  | release (k : Key)
  /-- ENV resets the block (60 R216, 70 R230). -/
  | reset
deriving DecidableEq, Repr, Inhabited

/-- An entry of the schedule: an agent's turn, or a µop word handed to the model as a step (30 R75). -/
inductive Turn where
  | agent (a : Action)
  | handed (w : Word)
deriving DecidableEq, Repr

/-- FREE VALUE. DUTY_LOCKED, OPEN in 00 R6, not assumed distinct from DUTY_UNLOCKED (93 U8; log 3). -/
opaque Config.dutyLocked : BitVec 16

/-- FREE VALUE. DUTY_UNLOCKED, OPEN in 00 R6 (93 U8; log 3). -/
opaque Config.dutyUnlocked : BitVec 16

/-- FREE VALUE. FLASH_TIME is OPEN and greater than 0 (00 R6, 10 R36): a fraction of milliseconds whose numerator less
one and denominator less one are these (log 3, log 25). -/
opaque Config.flashTimeParts : Nat × Nat

/-- FREE VALUE. Which agent takes the n-th turn that no schedule fixes (20 R59, 60 R204; log 4). -/
opaque Config.freeAction : Nat → Action

/-- FREE VALUE. The n-th bit drawn: a contended column (42 R122) or the order of a SETIND (43 R152); log 6. -/
opaque Config.freeBit : Nat → Bool

/-- FREE VALUE. `led_red` after the n-th draw's reset (10 R30, R40; log 7). -/
opaque Config.resetLedRed : Nat → Bool

/-- FREE VALUE. `led_green` after the n-th draw's reset (10 R30, R40; log 7). -/
opaque Config.resetLedGreen : Nat → Bool

/-- FREE VALUE. `pwm_cmp` after the n-th draw's reset (10 R31, R40; log 7). -/
opaque Config.resetPwmCmp : Nat → BitVec 16

/-- FREE VALUE. Whether a key is closed after the n-th draw's reset (10 R40; log 7). -/
opaque Config.resetPressed : Nat → Key → Bool

/-- FREE VALUE. Byte i of the code buffer as the n-th draw's reset left it (10 R22, R40; log 8). -/
opaque Config.resetBufByte : Nat → Nat → Byte

/-- The values 10 R36 and 00 R6 give: CFG_REF "5493", the default KEYMAP (rows "123", "456", "789", "*0#"), GUARD 2,
BTN_IN_ENTRY retain, 250 ms, 2 ms; the OPEN ones are free (log 2, log 3). -/
def Config.default : CfgRegs where
  ref := 0x33393435#32
  keymap := 0x23302A393837363534333231#96
  guard := 2#8
  dutyLocked := Config.dutyLocked
  dutyUnlocked := Config.dutyUnlocked
  btn := .retain
  tickMs := 250
  settleMs := 2
  flashMs := (Config.flashTimeParts.1 + 1) / (Config.flashTimeParts.2 + 1)

end Sys2Proof
end

