-- ==== Sys2Proof/Machine/State.lean ====
section
/-! DEFINITION. The state (10_state.md R20, R27, R33, R35, R36; 30_encoding.md R76), the stops, and the state
after reset (10 R40, 70 R230). -/

namespace Sys2Proof.Machine

/-- The µops a SEQ phase may queue: ACT, PINW, BUFCLR, SETST, PCLR or WAIT FLASH (10 R28). -/
inductive SeqOp where
  | act (locked : Bool)
  | pinw (pin : Pin) (v : Bool)
  | bufclr
  | setst (s : LockCode)
  | pclr
  | waitFlash
deriving DecidableEq, Repr

/-- Where a SEQ continues: `nxt ∈ {DISPATCH, SCAN_DRIVE(0)}` (10 R27). -/
inductive SeqNext where
  | dispatch
  | scan
deriving DecidableEq, Repr

/-- MAIN's control point, the block's program counter (10 R27). -/
inductive Phase where
  | dispatch
  | scanDrive (r : Row)
  | scanSettle (r : Row)
  | scanSample (r : Row)
  | scanNext (r : Row)
  | scanRwait (r : Row) (k : Byte)
  | scanRet (r : Row) (k : Byte)
  | key (k : Byte)
  | compare
  /-- SEQ(u :: q, nxt): the list is not empty by construction. -/
  | seq (u : SeqOp) (q : List SeqOp) (nxt : SeqNext)
deriving DecidableEq, Repr

/-- An event of the output trace (10 R33), or the event of a raised fault (60 R200). -/
inductive TraceEvent where
  | row (r : Row) (level : Bool)
  | red (level : Bool)
  | green (level : Bool)
  | pwm (v : BitVec 16)
  | fault (code : BitVec 2) (info : Nat)
deriving DecidableEq, Repr

/-- An entry of the step log: the word of a MAIN or ISR step, or an ENV action on a key, which has no word
(30 R76; log 10). -/
inductive LogEntry where
  | word (w : Word)
  | press (k : Key)
  | release (k : Key)
deriving DecidableEq, Repr

/-- The reasons a step stops. The faults of 60 R200 are no stops: raising one gives a next state (log 9). -/
inductive Fault where
  /-- Raised by the step when it is handed the legal word of a MAIN µop that the phase does not name: "Every MAIN
  step performs exactly the µop its phase names" (10 R28), so there is no such step. Safe (log 11). -/
  | wordNotNamedByPhase (w : Word)
deriving DecidableEq, Repr

/-- The refusals. -/
inductive Refusal where
  /-- Raised by an arm of `exec` whose instruction has no meaning yet; no arm raises it. Safe. -/
  | notModelled (mnemonic : String)
deriving DecidableEq, Repr

/-- The state of the block (10 R20), of its environment (10 R35), its observation (10 R33, 30 R76), its
configuration (10 R36), and the model's own fields for what the spec leaves open. -/
structure State where
  /-- `ls`, the LockState (10 R21). -/
  ls : LockCode
  /-- `buf[0..3]`, the code buffer: (index, byte) pairs in canonical form (20 R50; `Memory.wf`). -/
  buf : List Host.Cell
  /-- `len`, the buffer's count (10 R23). -/
  len : BitVec 3
  /-- `dc`, the DebounceCounter (10 R24). -/
  dc : BitVec 8
  /-- `pend`, the PendingButtonEvent (10 R25). -/
  pend : Bool
  /-- `phase` (10 R27). -/
  phase : Phase
  /-- `row_out[3:0]`, bit r the level of row line r (10 R29). -/
  rowOut : BitVec 4
  /-- `led_red` (10 R30). -/
  ledRed : Bool
  /-- `led_green` (10 R30). -/
  ledGreen : Bool
  /-- `pwm_cmp` (10 R31). -/
  pwmCmp : BitVec 16
  /-- `fault`, the sticky fault register (10 R26, 60 R200). -/
  fault : BitVec 2
  /-- `pressed`, ENV's set of closed keys, in the order of `allKeys` (10 R35). -/
  pressed : List Key
  /-- The output trace, oldest event first (10 R33). -/
  trace : List TraceEvent
  /-- The step log, oldest entry first (30 R76). -/
  stepLog : List LogEntry
  /-- The configuration registers (10 R36); no step writes them (00 R7). -/
  cfg : CfgRegs
  /-- The model's own: the turns already fixed, next first (log 4). -/
  sched : List Turn
  /-- The model's own: the drawn bits already fixed, next first (log 6). -/
  choices : List Bool
  /-- The model's own: how many free values have been taken (log 6). -/
  draws : Nat
  /-- The model's own: the number of the last reset's draw (log 8). -/
  bootDraw : Nat
deriving DecidableEq, Repr

/-- Every key of the 4x3 matrix, row by row (10 R35). -/
def allKeys : List Key :=
  [(0, 0), (0, 1), (0, 2), (1, 0), (1, 1), (1, 2), (2, 0), (2, 1), (2, 2), (3, 0), (3, 1), (3, 2)]

/-- The state after reset and initialisation (10 R40, 70 R230), with configuration `cfg`, under a schedule, the
draws of the reset numbered `n`. -/
def State.powerOn (cfg : CfgRegs) (sched : List Turn) (choices : List Bool) (n : Nat) : State where
  ls := LockCode.locked
  buf := []
  len := 0#3
  dc := 0#8
  pend := false
  phase := .dispatch
  rowOut := 0b1111#4
  ledRed := Config.resetLedRed n
  ledGreen := Config.resetLedGreen n
  pwmCmp := Config.resetPwmCmp n
  fault := 0#2
  pressed := allKeys.filter (Config.resetPressed n)
  trace := []
  stepLog := []
  cfg := cfg
  sched := sched
  choices := choices
  draws := n + 1
  bootDraw := n

/-- The machine right after reset (10 R40): the default configuration, nothing fixed about the turns to come. -/
def State.reset : State := State.powerOn Config.default [] [] 0

end Sys2Proof.Machine
end

