-- ==== Sys2Proof/Machine/Ops.lean ====
section
/-! DEFINITION. The named operations over the state: the step log and the output trace, raising a fault, the code
buffer, the row lines, the drawn bits, and MAIN's control point. -/

namespace Sys2Proof.Machine

/-! ### Observation -/

/-- 30 R76: a MAIN or ISR step appends its word to the step log. -/
def State.logStep (s : State) (i : Instr) : State :=
  { s with stepLog := s.stepLog ++ [.word (encode i)] }

/-! ### Faults -/

/-- 60 R200 code 1. -/
abbrev FaultCode.illegalWord : BitVec 2 := 1#2

/-- 60 R200 code 2. -/
abbrev FaultCode.bufOverflow : BitVec 2 := 2#2

/-- 60 R200 code 3. -/
abbrev FaultCode.badState : BitVec 2 := 3#2

/-- `raise Fault(code)` (00 R9, 60 R200): the sticky register takes the code, the trace the event (FAULT, code,
info), and nothing else changes (95 V36, V39b; log 9). -/
def State.raise (s : State) (code : BitVec 2) (info : Nat) : State :=
  { s with fault := code, trace := s.trace ++ [.fault code info] }

/-- 30 R75: the model is handed the illegal word `w` as a step. -/
def State.raiseIllegal (s : State) (w : Word) : State :=
  s.raise FaultCode.illegalWord w.toNat

/-! ### The code buffer (20 R50) -/

/-- The byte listed at index `a`. -/
def Memory.lookup : List Host.Cell → Nat → Option Byte
  | [], _ => none
  | (b, v) :: m, a => if a = b then some v else Memory.lookup m a

/-- List `v` at index `a`, in the place rising order gives it. -/
def Memory.write : List Host.Cell → Nat → Byte → List Host.Cell
  | [], a, v => [(a, v)]
  | (b, u) :: m, a, v =>
    if a < b then (a, v) :: (b, u) :: m
    else if a = b then (a, v) :: m
    else (b, u) :: Memory.write m a v

/-- Strictly rising indexes from `lo` on, all below 4. -/
def Memory.wfFrom : Nat → List Host.Cell → Bool
  | _, [] => true
  | lo, (a, _) :: m => decide (lo ≤ a) && decide (a < 4) && Memory.wfFrom (a + 1) m

/-- The canonical form of the buffer's contents. An unlisted byte is the reset's draw, a free value, so no byte is
known to equal it and an entry may hold any byte (log 8). -/
def Memory.wf (m : List Host.Cell) : Bool := Memory.wfFrom 0 m

/-- `BufRead(i)` (20 R50): a byte never written since reset is the reset's draw (10 R22, R40; log 8). -/
def State.bufRead (s : State) (i : Nat) : Byte :=
  (Memory.lookup s.buf i).getD (Config.resetBufByte s.bootDraw i)

/-- The write of `BufWrite(i, v)` at an index `i < 4` (20 R50). -/
def State.bufStore (s : State) (i : Nat) (v : Byte) : State :=
  { s with buf := Memory.write s.buf i v }

/-- `BufWrite(i, v)` (20 R50): `ok` with the byte written, or `error` with F_BUF_OVERFLOW raised and nothing
written. -/
def State.bufWrite (s : State) (i : Nat) (v : Byte) : Except State State :=
  if i < 4 then .ok (s.bufStore i v) else .error (s.raise FaultCode.bufOverflow i)

/-! ### Row lines (10 R29) -/

/-- The bit of row r in `row_out`. -/
def rowMask (r : Row) : BitVec 4 := 1#4 <<< r.val

/-- `S.row_out[r] <- level ; PinWrite(ROW_r, level)` (42 R125, R129). -/
def State.driveRow (s : State) (r : Row) (level : Bool) : State :=
  { s with
    rowOut := if level then s.rowOut ||| rowMask r else s.rowOut &&& ~~~rowMask r
    trace := s.trace ++ [.row r level] }

/-! ### Draws (00 R9 `draw`; log 6) -/

/-- The k-th bit drawn from `s` on: the fixed choices first, then free values. -/
def State.drawAt (s : State) (k : Nat) : Bool :=
  s.choices[k]?.getD (Config.freeBit (s.draws + (k - s.choices.length)))

/-- `s` after `n` bits were drawn. -/
def State.skipDraws (s : State) (n : Nat) : State :=
  { s with choices := s.choices.drop n, draws := s.draws + (n - s.choices.length) }

/-! ### MAIN's control point (10 R27, R28) -/

/-- The phase a SEQ's `nxt` names. -/
def SeqNext.phase : SeqNext → Phase
  | .dispatch => .dispatch
  | .scan => .scanDrive 0

/-- `phase <- SEQ(q, nxt)`, or `nxt` when nothing is left (10 R28). -/
def enqueue (q : List SeqOp) (nxt : SeqNext) : Phase :=
  match q with
  | [] => nxt.phase
  | u :: q => .seq u q nxt

/-- 10 R28, the SEQ row: `phase <- (q = [] ? nxt : SEQ(q, nxt))`. A phase that is no SEQ stays (log 12). -/
def Phase.advance : Phase → Phase
  | .seq _ q nxt => enqueue q nxt
  | p => p

/-- MAIN's SEQ phase advances past the µop just performed. -/
def State.advanceSeq (s : State) : State :=
  { s with phase := s.phase.advance }

/-- The µop a queue entry is. -/
def SeqOp.instr : SeqOp → Instr
  | .act locked => .act locked
  | .pinw pin v => .pinw pin v
  | .bufclr => .bufclr
  | .setst s => .setst s
  | .pclr => .pclr
  | .waitFlash => .wait .flash

/-- The µop each phase names (10 R28). -/
def Phase.instr : Phase → Instr
  | .dispatch => .disp
  | .scanDrive r => .rowdrv r
  | .scanSettle _ => .wait .settle
  | .scanSample r => .sample r
  | .scanNext r => .rowrel r
  | .scanRwait r _ => .rwait r
  | .scanRet r _ => .rowrel r
  | .key k => .bufapp k
  | .compare => .cmp
  | .seq u _ _ => u.instr

/-- `DISPATCH`, or the next row's drive: where a scan goes on after row `r` gave no key (42 R129). -/
def afterRow (r : Row) : Phase :=
  if h : r.val + 1 < 4 then .scanDrive ⟨r.val + 1, h⟩ else .dispatch

/-! ### ENV's steps on the keys (10 R35) -/

/-- `press(r, c)`: the key joins the set; the action joins the step log (30 R76). -/
def State.pressKey (s : State) (k : Key) : State :=
  { s with
    pressed := allKeys.filter (fun x => x == k || s.pressed.contains x)
    stepLog := s.stepLog ++ [.press k] }

/-- `release(r, c)`: the key leaves the set. -/
def State.releaseKey (s : State) (k : Key) : State :=
  { s with
    pressed := allKeys.filter (fun x => x != k && s.pressed.contains x)
    stepLog := s.stepLog ++ [.release k] }

/-- The set of closed keys is written in the one order of `allKeys`, each key once. -/
def State.keysCanonical (s : State) : Bool :=
  s.pressed == allKeys.filter (fun x => s.pressed.contains x)

/-- 70 R230: a reset during operation behaves as power-on does; the configuration and the turns to come are no
state of the block, and the draws are fresh (log 14). -/
def State.powerCycle (s : State) : State :=
  State.powerOn s.cfg s.sched s.choices s.draws

end Sys2Proof.Machine
end

