-- ==== Sys2Proof/Machine/Operands.lean ====
section
/-! DEFINITION. The values a µop reads: the configuration tables (20_memory.md R51, 10_state.md R36) and the column
sample `ColIn()` (42_keypad_scanner.md R122). -/

namespace Sys2Proof

/-- `CFG_REF[i]` (10 R36, 20 R51, R53). -/
def CfgRegs.refByte (cfg : CfgRegs) (i : Nat) : Byte := cfg.ref.extractLsb' (8 * i) 8

/-- `KEYMAP[r][c]`, byte 3r+c of CFG_KEYMAP (42 R124, 20 R51). -/
def CfgRegs.keyAt (cfg : CfgRegs) (r : Row) (c : Col) : Byte :=
  cfg.keymap.extractLsb' (8 * (3 * r.val + c.val)) 8

/-- The duty-cycle constant ACT writes: `L = 1 ? DUTY_LOCKED : DUTY_UNLOCKED` (43 R150). -/
def CfgRegs.duty (cfg : CfgRegs) (locked : Bool) : BitVec 16 :=
  if locked then cfg.dutyLocked else cfg.dutyUnlocked

end Sys2Proof

namespace Sys2Proof.Machine

/-- The rows of the keypad, in the scan's order (42 R123). -/
def allRows : List Row := [0, 1, 2, 3]

/-- The columns of the keypad, lowest first (42 R123). -/
def allCols : List Col := [0, 1, 2]

/-- The level of row line r, `true` high (10 R29). -/
def State.rowLevel (s : State) (r : Row) : Bool := s.rowOut.getLsbD r.val

/-- `K_c`, the rows of the keys closed in column c (42 R122). -/
def State.closedRows (s : State) (c : Col) : List Row :=
  allRows.filter (fun r => s.pressed.contains (r, c))

/-- 42 R122: a low row is joined to column c and at least two of the column's keys are closed. -/
def State.contended (s : State) (c : Col) : Bool :=
  (s.closedRows c).any (fun r => !s.rowLevel r) && decide (2 ≤ (s.closedRows c).length)

/-- How many columns below c take a draw before it in one `ColIn()`. -/
def State.contendedBelow (s : State) (c : Col) : Nat :=
  (allCols.filter (fun d => decide (d < c) && s.contended d)).length

/-- `cols[c]` (42 R122): a draw under contention, otherwise the AND of the joined rows, 1 when there is none. -/
def State.colLevel (s : State) (c : Col) : Bool :=
  if s.contended c then s.drawAt (s.contendedBelow c) else (s.closedRows c).all s.rowLevel

/-- `ColIn()`, the sample `cols[2:0]` (42 R122, 30 R80). -/
def State.colIn (s : State) : BitVec 3 :=
  BitVec.ofBool (s.colLevel 2) ++ BitVec.ofBool (s.colLevel 1) ++ BitVec.ofBool (s.colLevel 0)

/-- `ColIn()` can return 0b111 from `s`, with its draws free (42 R128): every column is contended or reads high. -/
def State.canReadAllHigh (s : State) : Bool :=
  allCols.all (fun c => s.contended c || (s.closedRows c).all s.rowLevel)

/-- The state after `ColIn()`: no read has a side effect (20 R56); only the draws it took are gone. -/
def State.afterColIn (s : State) : State :=
  s.skipDraws (allCols.filter s.contended).length

/-- `min { c | cols[c] = 0 }`, none when the sample is 0b111 (42 R123, R127). -/
def firstLow (cols : BitVec 3) : Option Col :=
  if cols.getLsbD 0 = false then some 0
  else if cols.getLsbD 1 = false then some 1
  else if cols.getLsbD 2 = false then some 2
  else none

end Sys2Proof.Machine
end

