-- ==== Sys2Proof/Machine/Actuator.lean ====
section
/-! DEFINITION. The actuator driver and the indicators (43_actuator_indicators.md R150, R151). -/

namespace Sys2Proof.Machine

/-- `S.pwm_cmp <- v ; PinWrite(PWM, v)` (43 R150). -/
def State.writePwm (s : State) (v : BitVec 16) : State :=
  { s with pwmCmp := v, trace := s.trace ++ [.pwm v] }

/-- `S.led <- v ; PinWrite(pin, v)`; the other indicator is not touched (43 R151). -/
def State.writePin (s : State) (pin : Pin) (v : Bool) : State :=
  match pin with
  | .red => { s with ledRed := v, trace := s.trace ++ [.red v] }
  | .green => { s with ledGreen := v, trace := s.trace ++ [.green v] }

/-- ACT L (43 R150). -/
def execAct (locked : Bool) (s : State) : Host.Outcome State Fault Refusal :=
  .next ((s.writePwm (s.cfg.duty locked)).advanceSeq.logStep (.act locked))

/-- PINW pin, v (43 R151). -/
def execPinw (pin : Pin) (v : Bool) (s : State) : Host.Outcome State Fault Refusal :=
  .next ((s.writePin pin v).advanceSeq.logStep (.pinw pin v))

end Sys2Proof.Machine
end

