-- ==== Sys2Proof/Machine/Flags.lean ====
section
/-! DEFINITION. The block's one status flag, `pend` (10_state.md R25). There are no condition codes and no
arithmetic flags. -/

namespace Sys2Proof.Machine

/-- Set `pend`: only an accepted EDGE does (10 R25, 41 R110). -/
def State.setPend (s : State) : State := { s with pend := true }

/-- Clear `pend`: only PCLR does (10 R25, 44 R177). -/
def State.clearPend (s : State) : State := { s with pend := false }

end Sys2Proof.Machine
end

