-- ==== Sys2Proof/Machine/Handlers.lean ====
section
/-! DEFINITION. The two interrupt handlers: TICK (40_debounce_timer.md R100) and EDGE (41_button_edge.md R110).
Entry saves nothing and return restores nothing (60 R205, R206): each is one atomic step. Each handler reads `dc`
once; its writes are named as a function of the value read, so that a nested run can be written down (60 R203). -/

namespace Sys2Proof.Machine

/-- TICK's write after it read `v` from `dc` (40 R100). -/
def State.tickWrite (s : State) (v : BitVec 8) : State :=
  if 0#8 < v then { s with dc := v - 1#8 } else s

/-- EDGE's writes after it read `v` from `dc` (41 R110). -/
def State.edgeWrite (s : State) (v : BitVec 8) : State :=
  if v = 0#8 then { s.setPend with dc := s.cfg.guard } else s

/-- TICK (40 R100). -/
def execTick (s : State) : Host.Outcome State Fault Refusal :=
  .next ((s.tickWrite s.dc).logStep .tick)

/-- EDGE (41 R110). -/
def execEdge (s : State) : Host.Outcome State Fault Refusal :=
  .next ((s.edgeWrite s.dc).logStep .edge)

end Sys2Proof.Machine
end

