-- ==== Sys2Proof/Machine/Keypad.lean ====
section
/-! DEFINITION. The keypad scanner's µops (42_keypad_scanner.md R125 to R129). -/

namespace Sys2Proof.Machine

/-- ROWDRV r (42 R125). -/
def execRowdrv (r : Row) (s : State) : Host.Outcome State Fault Refusal :=
  .next { (s.driveRow r false).logStep (.rowdrv r) with phase := .scanSettle r }

/-- The phase after a WAIT (42 R126): the sample after a settle delay, otherwise as SEQ advances. -/
def Phase.afterWait : Phase → Phase
  | .scanSettle r => .scanSample r
  | p => p.advance

/-- WAIT kind (42 R126): in the untimed model the delay is this one step, and only the phase changes. -/
def execWait (kind : WaitKind) (s : State) : Host.Outcome State Fault Refusal :=
  .next { s.logStep (.wait kind) with phase := s.phase.afterWait }

/-- The phase SAMPLE r chooses from the sample `cols` (42 R127). -/
def samplePhase (cfg : CfgRegs) (r : Row) (cols : BitVec 3) : Phase :=
  match firstLow cols with
  | none => .scanNext r
  | some c => .scanRwait r (cfg.keyAt r c)

/-- SAMPLE r (42 R127). -/
def execSample (r : Row) (s : State) : Host.Outcome State Fault Refusal :=
  .next { s.afterColIn.logStep (.sample r) with phase := samplePhase s.cfg r s.colIn }

/-- The phase after a release wait that passed (42 R128). A phase that is no SCAN_RWAIT stays (log 12). -/
def Phase.afterRwait : Phase → Phase
  | .scanRwait r k => .scanRet r k
  | p => p

/-- RWAIT r (42 R128): it passes when the sample is 0b111; otherwise MAIN holds, and nothing changes but the draws
the sample took (00 R10; log 5). -/
def execRwait (r : Row) (s : State) : Host.Outcome State Fault Refusal :=
  .next (if s.colIn = 0b111#3
    then { s.afterColIn.logStep (.rwait r) with phase := s.phase.afterRwait }
    else s.afterColIn)

/-- The phase after ROWREL (42 R129). A phase that is neither SCAN_RET nor SCAN_NEXT stays (log 12). -/
def Phase.afterRowrel : Phase → Phase
  | .scanRet _ k => .key k
  | .scanNext r => afterRow r
  | p => p

/-- ROWREL r (42 R129). -/
def execRowrel (r : Row) (s : State) : Host.Outcome State Fault Refusal :=
  .next { (s.driveRow r true).logStep (.rowrel r) with phase := s.phase.afterRowrel }

end Sys2Proof.Machine
end

