-- ==== Sys2Proof/Machine/Pseudo.lean ====
section
/-! DEFINITION. The pseudo-instructions of 30_encoding.md R82, as the µop lists MAIN enqueues. -/

namespace Sys2Proof.Machine

/-- SETIND r, g: two PINW in an order that is a draw (43 R152). -/
def setind (redFirst r g : Bool) : List SeqOp :=
  if redFirst then [.pinw .red r, .pinw .green g] else [.pinw .green g, .pinw .red r]

/-- FLASH, the "typing" indication (43 R153). -/
def flash : List SeqOp := [.pinw .green true, .waitFlash, .pinw .green false]

/-- T_LB: Locked, button event (44 R171). -/
def seqLB (redFirst : Bool) : List SeqOp :=
  .bufclr :: setind redFirst false false ++ [.setst LockCode.entering, .pclr]

/-- T_UB: Unlocked, button event (44 R172). -/
def seqUB (redFirst : Bool) : List SeqOp :=
  .bufclr :: .act true :: setind redFirst true false ++ [.setst LockCode.locked, .pclr]

/-- T_OK: fourth key, code equal (44 R178). -/
def seqOk (redFirst : Bool) : List SeqOp :=
  .act false :: setind redFirst false true ++ [.bufclr, .setst LockCode.unlocked]

/-- T_BAD: fourth key, code different (44 R179). -/
def seqBad (redFirst : Bool) : List SeqOp :=
  .act true :: setind redFirst true false ++ [.bufclr, .setst LockCode.locked]

/-- `phase <- SEQ(expand(T), DISPATCH)`: the order of T's SETIND is drawn at the expansion (43 R152). -/
def State.startSeq (s : State) (expand : Bool → List SeqOp) : State :=
  { s.skipDraws 1 with phase := enqueue (expand (s.drawAt 0)) .dispatch }

end Sys2Proof.Machine
end

