-- ==== Sys2Proof/Machine/Lock.lean ====
section
/-! DEFINITION. The lock state machine's µops (44_lock_fsm.md R170, R173 to R177). -/

namespace Sys2Proof.Machine

/-- What DISP does to the state (44 R170). -/
def State.dispatch (s : State) : State :=
  match s.ls.toNat with
  | 0 => if s.pend then s.startSeq seqLB else { s with phase := .dispatch }
  | 1 =>
    if s.cfg.btn = .discard ∧ s.pend = true then { s with phase := enqueue [.pclr] .scan }
    else { s with phase := .scanDrive 0 }
  | 2 => if s.pend then s.startSeq seqUB else { s with phase := .dispatch }
  | _ => s.raise FaultCode.badState s.ls.toNat

/-- DISP (44 R170). -/
def execDisp (s : State) : Host.Outcome State Fault Refusal :=
  .next (s.dispatch.logStep .disp)

/-- BUFCLR (44 R173): the bytes are left as they are. -/
def execBufclr (s : State) : Host.Outcome State Fault Refusal :=
  .next ({ s with len := 0#3 }.advanceSeq.logStep .bufclr)

/-- What BUFAPP k does to the state (44 R174): a raised overflow ends the step (95 V39b). -/
def State.append (s : State) (k : Byte) : State :=
  match s.bufWrite s.len.toNat k with
  | .error raised => raised
  | .ok t =>
    { t with
      len := s.len + 1#3
      phase := if s.len.toNat + 1 < 4 then enqueue flash .dispatch else .compare }

/-- BUFAPP k (44 R174); BUFAPP of NOKEY is an illegal word (30 R75; log 13). -/
def execBufapp (k : Byte) (s : State) : Host.Outcome State Fault Refusal :=
  .next (if k = noKey then s.raiseIllegal (encode (.bufapp k)) else (s.append k).logStep (.bufapp k))

/-- CMP's comparison (44 R175): a full buffer, equal to CFG_REF at every position. -/
def State.codeMatches (s : State) : Bool :=
  s.len == 4#3 && [0, 1, 2, 3].all (fun i => s.bufRead i == s.cfg.refByte i)

/-- CMP (44 R175). -/
def execCmp (s : State) : Host.Outcome State Fault Refusal :=
  .next ((s.startSeq (if s.codeMatches then seqOk else seqBad)).logStep .cmp)

/-- SETST st (44 R176); SETST 3 is an illegal word (30 R75; log 13). -/
def execSetst (st : LockCode) (s : State) : Host.Outcome State Fault Refusal :=
  .next (if st = LockCode.reserved then s.raiseIllegal (encode (.setst st))
    else { s with ls := st }.advanceSeq.logStep (.setst st))

/-- PCLR (44 R177). -/
def execPclr (s : State) : Host.Outcome State Fault Refusal :=
  .next (s.clearPend.advanceSeq.logStep .pclr)

end Sys2Proof.Machine
end

