-- ==== Sys2Proof/Machine/Dispatch.lean ====
section
/-! DEFINITION. One arm per µop (30_encoding.md R72). -/

namespace Sys2Proof.Machine

def exec (i : Instr) (s : State) : Host.Outcome State Fault Refusal :=
  match i with
  | .tick => Sys2Proof.Machine.execTick s
  | .edge => Sys2Proof.Machine.execEdge s
  | .disp => Sys2Proof.Machine.execDisp s
  | .rowdrv r => Sys2Proof.Machine.execRowdrv r s
  | .rowrel r => Sys2Proof.Machine.execRowrel r s
  | .wait kind => Sys2Proof.Machine.execWait kind s
  | .sample r => Sys2Proof.Machine.execSample r s
  | .rwait r => Sys2Proof.Machine.execRwait r s
  | .act locked => Sys2Proof.Machine.execAct locked s
  | .pinw pin v => Sys2Proof.Machine.execPinw pin v s
  | .bufclr => Sys2Proof.Machine.execBufclr s
  | .bufapp k => Sys2Proof.Machine.execBufapp k s
  | .cmp => Sys2Proof.Machine.execCmp s
  | .setst st => Sys2Proof.Machine.execSetst st s
  | .pclr => Sys2Proof.Machine.execPclr s

end Sys2Proof.Machine
end

