-- ==== Sys2Proof/Machine/Sequencer.lean ====
section
/-! DEFINITION. The three agents' turns (00_scope.md R5, 10_state.md R28, R35): which one is next, and what it does. -/

namespace Sys2Proof.Machine

/-- What a turn of an agent does (10 R28, R35; 70 R230). -/
def perform (a : Action) (s : State) : Host.Outcome State Fault Refusal :=
  match a with
  | .main => exec s.phase.instr s
  | .tick => exec .tick s
  | .edge => exec .edge s
  | .press k => .next (s.pressKey k)
  | .release k => .next (s.releaseKey k)
  | .reset => .next s.powerCycle

/-- The model is handed the word `w` as a step: an illegal word raises F_ILLEGAL_WORD (30 R75); a handler runs in any
phase (60 R202); a MAIN µop runs when the phase names it (10 R28; log 11). -/
def runWord (w : Word) (s : State) : Host.Outcome State Fault Refusal :=
  match decode w with
  | .error _ => .next (s.raiseIllegal w)
  | .ok i => if i.isHandler || s.phase.instr == i then exec i s else .fault (.wordNotNamedByPhase w)

/-- What the next entry of the schedule does. -/
def takeTurn (t : Turn) (s : State) : Host.Outcome State Fault Refusal :=
  match t with
  | .agent a => perform a s
  | .handed w => runWord w s

/-- The next turn: the first fixed one, or a free choice of the agent (20 R59, 60 R204; log 4). -/
def State.nextTurn (s : State) : Turn :=
  match s.sched with
  | t :: _ => t
  | [] => .agent (Config.freeAction s.draws)

/-- `s` with the next turn taken off its schedule. -/
def State.popTurn (s : State) : State :=
  { s with sched := s.sched.tail, draws := if s.sched.isEmpty then s.draws + 1 else s.draws }

/-- The turns of a finite run, one after the other, ending at the first stop: for statements about runs. -/
def performAll : List Action → State → Host.Outcome State Fault Refusal
  | [], s => .next s
  | a :: as, s =>
    match perform a s with
    | .next t => performAll as t
    | .fault r => .fault r
    | .refused r => .refused r

/-- A phase that names the µop `i` (10 R28): the present one if it does. -/
def namingPhase (cfg : CfgRegs) (now : Phase) (i : Instr) : Phase :=
  if now.instr = i then now
  else match i with
    | .tick => now
    | .edge => now
    | .disp => .dispatch
    | .rowdrv r => .scanDrive r
    | .rowrel r => .scanNext r
    | .wait .settle => .scanSettle 0
    | .wait .flash => .seq .waitFlash [] .dispatch
    | .sample r => .scanSample r
    | .rwait r => .scanRwait r (cfg.keyAt r 0)
    | .act locked => .seq (.act locked) [] .dispatch
    | .pinw pin v => .seq (.pinw pin v) [] .dispatch
    | .bufclr => .seq .bufclr [] .dispatch
    | .bufapp k => .key k
    | .cmp => .compare
    | .setst st => .seq (.setst st) [] .dispatch
    | .pclr => .seq .pclr [] .dispatch

/-- `s` about to be handed the word `w`, its phase naming the µop `w` spells, if it spells one (log 16). -/
def State.presentWord (s : State) (w : Word) : State :=
  { s with
    sched := .handed w :: s.sched
    phase := match decode w with
      | .ok i => namingPhase s.cfg s.phase i
      | .error _ => s.phase }

end Sys2Proof.Machine
end

