-- ==== Sys2Proof/Machine/Step.lean ====
section
/-! DEFINITION. One step of the whole model: the next turn of the interleaving (20_memory.md R59). -/

namespace Sys2Proof.Machine

/-- One step: the next agent's turn. -/
def step (s : State) : Host.Outcome State Fault Refusal :=
  takeTurn s.nextTurn s.popTurn

/-- `s` with the µop word of `nbits` bits `w` as what the very next step runs. The block stores no µop word
(30 R76), so the word is handed to the step and the phase is one that names it (log 16). -/
def State.withFetchWord (s : State) (nbits w : Nat) : State :=
  s.presentWord (BitVec.ofNat 16 (w % 2 ^ nbits))

end Sys2Proof.Machine
end

