-- ==== Sys2Proof/Safety.lean ====
section
/-! DEFINITION. The terms claims are stated in: the legal configurations, the invariants of the block, the
contended columns, the accepted edges of a run, infinite schedules with their fairness, and the timed refinement. -/

namespace Sys2Proof

/-- The legal values of the configuration registers (10 R36, 92 D13, D32; log 22). -/
structure CfgRegs.Legal (cfg : CfgRegs) : Prop where
  guardPos : cfg.guard ≠ 0#8
  refAscii : ∀ i : Fin 4, (cfg.refByte i.val).toNat < 128
  keyAscii : ∀ (r : Row) (c : Col), (cfg.keyAt r c).toNat < 128
  keyNotNoKey : ∀ (r : Row) (c : Col), cfg.keyAt r c ≠ noKey
  keysDistinct : ∀ (r q : Row) (c d : Col), cfg.keyAt r c = cfg.keyAt q d → r = q ∧ c = d
  tickPos : 0 < cfg.tickMs
  settlePos : 0 < cfg.settleMs
  flashPos : 0 < cfg.flashMs

end Sys2Proof

namespace Sys2Proof.Machine

/-! ### Invariants -/

/-- The levels of the row lines each phase goes with: row r low from its drive to its release (10 R29). -/
def Phase.rowOut : Phase → BitVec 4
  | .scanSettle r => ~~~rowMask r
  | .scanSample r => ~~~rowMask r
  | .scanNext r => ~~~rowMask r
  | .scanRwait r _ => ~~~rowMask r
  | .scanRet r _ => ~~~rowMask r
  | _ => 0b1111#4

/-- 10 R29: bit r of `row_out` is 0 exactly while the phase is one of row r's. -/
def RowsMatchPhase (s : State) : Prop := s.rowOut = s.phase.rowOut

/-- What holds of `ls` and `len` at DISPATCH (44 R181). -/
def dispatchReady (ls : LockCode) (len : BitVec 3) : Bool :=
  (ls == LockCode.entering && decide (len.toNat ≤ 3)) ||
    ((ls == LockCode.locked || ls == LockCode.unlocked) && len == 0#3)

/-- What holds of `ls` and `len` in a scan phase (42 R121, 44 R181). -/
def scanReady (ls : LockCode) (len : BitVec 3) : Bool :=
  ls == LockCode.entering && decide (len.toNat ≤ 3)

/-- The µops are T_OK's or T_BAD's last ones (44 R178, R179). -/
def OutcomeTail (q : List SeqOp) : Prop :=
  ∃ redFirst : Bool, q <:+ seqOk redFirst ∨ q <:+ seqBad redFirst

/-- The queued µops take `ls` and `len` to values the continuation is ready for, and store no reserved state. -/
def queueReady (ls : LockCode) (len : BitVec 3) : List SeqOp → SeqNext → Bool
  | [], .dispatch => dispatchReady ls len
  | [], .scan => scanReady ls len
  | .bufclr :: q, nxt => queueReady ls 0#3 q nxt
  | .setst st :: q, nxt => st != LockCode.reserved && queueReady st len q nxt
  | _ :: q, nxt => queueReady ls len q nxt

/-- The buffer invariants of 44 R181, with the lock state each phase goes with (42 R121). In a SEQ a full buffer goes
with EnteringCode and the rest of T_OK or T_BAD, its BUFCLR not yet performed. -/
def BufferMatchesPhase (s : State) : Prop :=
  s.len.toNat ≤ 4 ∧
  match s.phase with
  | .dispatch => dispatchReady s.ls s.len = true
  | .compare => s.ls = LockCode.entering ∧ s.len = 4#3
  | .seq u q nxt => queueReady s.ls s.len (u :: q) nxt = true ∧
      (s.len = 4#3 → s.ls = LockCode.entering ∧ nxt = .dispatch ∧ OutcomeTail (u :: q) ∧ .bufclr ∈ u :: q)
  | _ => scanReady s.ls s.len = true

/-- The character a phase carries is never NOKEY (30 R79, 10 R36). -/
def HeldKeyIsAKey (s : State) : Prop :=
  match s.phase with
  | .scanRwait _ k => k ≠ noKey
  | .scanRet _ k => k ≠ noKey
  | .key k => k ≠ noKey
  | _ => True

/-- 10 R24: the values held are 0..GUARD. -/
def GuardBounded (s : State) : Prop := s.dc.toNat ≤ s.cfg.guard.toNat

/-- Memory and the set of closed keys are in canonical form. -/
def Canonical (s : State) : Prop := Memory.wf s.buf = true ∧ s.keysCanonical = true

/-- 10 R22: every byte below `len` was written since the reset. -/
def BytesBelowLenWritten (s : State) : Prop :=
  ∀ i, i < s.len.toNat → (Memory.lookup s.buf i).isSome = true

/-- The values the spec states for reset (10 R40, 70 R230). -/
def ResetValues (s : State) : Prop :=
  s.ls = LockCode.locked ∧ s.len = 0#3 ∧ s.dc = 0#8 ∧ s.pend = false ∧ s.phase = .dispatch ∧
    s.rowOut = 0b1111#4 ∧ s.fault = 0#2 ∧ s.trace = []

/-! ### Contention (42 R122) -/

/-- 42 R122: a row driven low is joined to column c, and another of the column's keys is closed. -/
abbrev ColumnContended (s : State) (c : Col) : Prop :=
  ∃ r q : Row, r ≠ q ∧ (r, c) ∈ s.pressed ∧ (q, c) ∈ s.pressed ∧ s.rowOut.getLsbD r.val = false

/-- How many bits one `ColIn()` draws: one for each contended column (42 R122, log 6). -/
def bitsSampled (s : State) : Nat := (List.finRange 3).countP (fun c => decide (ColumnContended s c))

/-! ### Runs -/

/-- How many EDGE steps of a run are accepted: those that find `dc = 0` (41 R110). -/
def acceptedEdges : List Action → State → Nat
  | [], _ => 0
  | a :: as, s =>
    (if a = .edge ∧ s.dc = 0#8 then 1 else 0) +
      match perform a s with
      | .next t => acceptedEdges as t
      | _ => 0

/-- The run of an infinite schedule, n turns on. -/
def runOf (σ : Nat → Action) (s : State) : Nat → Host.Outcome State Fault Refusal
  | 0 => .next s
  | n + 1 =>
    match runOf σ s n with
    | .next t => perform (σ n) t
    | .fault r => .fault r
    | .refused r => .refused r

/-- 40 R102: TICK steps occur infinitely often. -/
def TickFair (σ : Nat → Action) : Prop := ∀ n, ∃ m, n ≤ m ∧ σ m = .tick

/-- MAIN has an enabled step (44 R186): it is held in RWAIT only, while `ColIn()` cannot return 0b111 (42 R128). -/
def State.mainEnabled (s : State) : Bool :=
  match s.phase with
  | .scanRwait _ _ => s.canReadAllHigh
  | _ => true

/-- A turn of MAIN from `s` is a step and no hold (00 R9, R10): in RWAIT the sample taken is 0b111 (log 5). -/
def State.mainMoves (s : State) : Bool :=
  match s.phase with
  | .scanRwait _ _ => s.colIn == 0b111#3
  | _ => true

/-- MAIN is held forever in the run: from some turn on it has no enabled step. -/
def HeldForever (σ : Nat → Action) (s : State) : Prop :=
  ∃ n, ∀ m t, n ≤ m → runOf σ s m = .next t → t.mainEnabled = false

/-- MAIN takes infinitely many steps in the run, held turns not counted. -/
def MainStepsForever (σ : Nat → Action) (s : State) : Prop :=
  ∀ n, ∃ m t, n ≤ m ∧ σ m = .main ∧ runOf σ s m = .next t ∧ t.mainMoves = true

/-- 44 R186: MAIN takes infinitely many steps, unless it is held forever. -/
def MainFair (σ : Nat → Action) (s : State) : Prop := ¬ HeldForever σ s → MainStepsForever σ s

/-- 60 R207: every closed key is eventually opened. -/
def ReleaseDuty (σ : Nat → Action) (s : State) : Prop :=
  ∀ n t k, runOf σ s n = .next t → k ∈ t.pressed →
    ∃ m u, n ≤ m ∧ runOf σ s m = .next u ∧ k ∉ u.pressed

/-! ### The timed refinement (70 R247; log 18, log 25) -/

/-- The times of the turns `a` of a timed run. -/
def timesOf (a : Action) (l : List (Time × Action)) : List Time :=
  (l.filter (fun x => x.2 == a)).map (·.1)

/-- `n` ticks `period` apart from `first` on. -/
def tickTimes (first period : Time) (n : Nat) : List Time :=
  (List.range n).map (fun i : Nat => first + (i : Time) * period)

/-- How long after the MAIN step before it MAIN's next step ends, if it is a WAIT: SETTLE_TIME after the ROWDRV,
FLASH_TIME after the PINW GREEN, 1 (70 R247, 42 R126). -/
def State.waitTime (s : State) : Option Time :=
  match s.phase with
  | .scanSettle _ => some s.cfg.settleMs
  | .seq .waitFlash _ _ => some s.cfg.flashMs
  | _ => none

/-- A turn that ends at `t` ends in time: a WAIT its fixed time after MAIN's latest step, at `since`; every other µop
and each handler after the latest of them, at `busy`, by however little (93 U15), and such a µop after MAIN's latest
step too; ENV at any moment. -/
def turnInTime (s : State) (a : Action) (since busy t : Time) : Prop :=
  match a with
  | .main => (∀ d, s.waitTime = some d → t = since + d) ∧ (s.waitTime = none → since < t ∧ busy < t)
  | .tick => busy < t
  | .edge => busy < t
  | .press _ => True
  | .release _ => True
  | .reset => True

/-- When MAIN's latest step ended, after the turn `a` that ended at `t`. -/
def nextSince (a : Action) (since t : Time) : Time :=
  match a with
  | .main => t
  | _ => since

/-- When the latest handler or µop other than a WAIT ended, after the turn `a` that ended at `t`. -/
def nextBusy (s : State) (a : Action) (busy t : Time) : Time :=
  match a with
  | .main => if s.waitTime.isSome then busy else t
  | .tick => t
  | .edge => t
  | _ => busy

/-- The turns of a run from `s` end in time, and a WAIT still to come at `finish` is not due by then. -/
def TurnsInTime : List (Time × Action) → State → Time → Time → Time → Prop
  | [], s, since, _, finish => ∀ d, s.waitTime = some d → finish < since + d
  | (t, a) :: l, s, since, busy, finish =>
    turnInTime s a since busy t ∧
      ∃ u, perform a s = .next u ∧ TurnsInTime l u (nextSince a since t) (nextBusy s a busy t) finish

/-- A run of agents' turns without a reset, from `s` at `start` to `t` at `finish`, each turn with the time at which it
ended, MAIN's latest step before it having ended at `since`, meets 70 R247: the first tick is due within a TICK_PERIOD of
`start` whatever its phase, ticks are exactly TICK_PERIOD apart, and none due by `finish` is missing; every WAIT ends its
fixed time after the step before it, and none due by `finish` is missing, the one that `s` may be in among them; every
other µop and each handler takes a positive time. That this time is bounded, by a bound the rule does not give, holds of
every finite run for some bound. A held turn of MAIN has a time as a step does. -/
structure TimedRun (l : List (Time × Action)) (s t : State) (since start finish : Time) : Prop where
  noReset : .reset ∉ l.map (·.2)
  run : performAll (l.map (·.2)) s = .next t
  begun : since ≤ start
  ended : start ≤ finish
  within : ∀ x ∈ l, start ≤ x.1 ∧ x.1 ≤ finish
  rising : l.Pairwise (fun x y => x.1 ≤ y.1)
  ticks : ∃ (first : Time) (n : Nat), start < first ∧ first ≤ start + s.cfg.tickMs ∧
    timesOf .tick l = tickTimes first s.cfg.tickMs n ∧ finish < first + n * s.cfg.tickMs
  turns : TurnsInTime l s since start finish

end Sys2Proof.Machine
end

