-- ==== Sys2Proof/Certificates/Slice0/Obligations.lean ====
section
/-! DEFINITION. What is claimed of the model, each claim from the rules of spec/ its docstring names. -/

open Sys2Proof Sys2Proof.Machine

/-! ## Encoding -/

/-- 30 R71 to R73, R75: decoding the word of a well-formed µop gives the µop back, whatever its operands. -/
def Obligations.DecodeOfEncodeIsTheMicroOp : Prop :=
  ∀ i : Instr, i.wellFormed = true → decode (encode i) = .ok i

/-- 30 R70 to R75: a word that spells a µop spells a well-formed one, and is that µop's word; no bit is ignored. -/
def Obligations.EncodeOfDecodeIsTheWord : Prop :=
  ∀ (w : Word) (i : Instr), decode w = .ok i → i.wellFormed = true ∧ encode i = w

/-- 30 R83: the listing of the legal words by mnemonic and operands: a word decodes to a µop exactly if the listing
gives it that word. -/
def Obligations.LegalWordsAreTheListing : Prop :=
  ∀ w : Word,
    (decode w = .ok .tick ↔ w = 0x1000#16) ∧
    (decode w = .ok .edge ↔ w = 0x2000#16) ∧
    (decode w = .ok .disp ↔ w = 0x3000#16) ∧
    (∀ r : Row, decode w = .ok (.rowdrv r) ↔ w = 0x4000#16 ||| BitVec.ofNat 16 r.val) ∧
    (∀ r : Row, decode w = .ok (.rowrel r) ↔ w = 0x5000#16 ||| BitVec.ofNat 16 r.val) ∧
    (decode w = .ok (.wait .settle) ↔ w = 0x6000#16) ∧
    (decode w = .ok (.wait .flash) ↔ w = 0x6001#16) ∧
    (∀ r : Row, decode w = .ok (.sample r) ↔ w = 0x7000#16 ||| BitVec.ofNat 16 r.val) ∧
    (∀ r : Row, decode w = .ok (.rwait r) ↔ w = 0x8000#16 ||| BitVec.ofNat 16 r.val) ∧
    (decode w = .ok (.act false) ↔ w = 0x9000#16) ∧
    (decode w = .ok (.act true) ↔ w = 0x9001#16) ∧
    (decode w = .ok (.pinw .red false) ↔ w = 0xA000#16) ∧
    (decode w = .ok (.pinw .red true) ↔ w = 0xA001#16) ∧
    (decode w = .ok (.pinw .green false) ↔ w = 0xA002#16) ∧
    (decode w = .ok (.pinw .green true) ↔ w = 0xA003#16) ∧
    (decode w = .ok .bufclr ↔ w = 0xB000#16) ∧
    (∀ k : Byte, decode w = .ok (.bufapp k) ↔ k ≠ 0#8 ∧ w = 0xC000#16 ||| k.setWidth 16) ∧
    (decode w = .ok .cmp ↔ w = 0xD000#16) ∧
    (decode w = .ok (.setst 0#2) ↔ w = 0xE000#16) ∧
    (decode w = .ok (.setst 1#2) ↔ w = 0xE001#16) ∧
    (decode w = .ok (.setst 2#2) ↔ w = 0xE002#16) ∧
    decode w ≠ .ok (.setst 3#2) ∧
    (decode w = .ok .pclr ↔ w = 0xF000#16)

/-- 95 V70 to V83: words written out from 30 R72 decode to what they stand for. -/
def Obligations.WrittenOutWordsDecode : Prop :=
  decode 0x1000#16 = .ok .tick ∧ decode 0x2000#16 = .ok .edge ∧ decode 0x4003#16 = .ok (.rowdrv 3) ∧
  decode 0xA003#16 = .ok (.pinw .green true) ∧ decode 0xC023#16 = .ok (.bufapp 0x23#8) ∧
  decode 0xF000#16 = .ok .pclr ∧ decode 0x0000#16 = .error .reservedOpcode ∧
  decode 0x1001#16 = .error .reservedBits ∧ decode 0xC000#16 = .error .noKeyCharacter ∧
  decode 0xE003#16 = .error .reservedState ∧ decode 0xC12A#16 = .error .reservedBits

/-! ## Reset -/

/-- 10 R40, 70 R230: what reset leaves, at power-on and at a reset during operation. -/
def Obligations.ResetLeavesTheStatedValues : Prop :=
  ResetValues State.reset ∧ ∀ s : State, ∃ t, perform .reset s = .next t ∧ ResetValues t ∧ t.cfg = s.cfg

/-- 10 R36, 00 R6: the configuration the reset state carries has the values the spec gives and is legal. -/
def Obligations.ResetConfigurationIsTheReferenceOne : Prop :=
  State.reset.cfg.Legal ∧ State.reset.cfg.ref = 0x33393435#32 ∧ State.reset.cfg.guard = 2#8 ∧
  State.reset.cfg.btn = .retain ∧ State.reset.cfg.tickMs = 250 ∧ State.reset.cfg.settleMs = 2 ∧
  (∀ i : Fin 4, (State.reset.cfg.refByte i.val).toNat = [0x35, 0x34, 0x39, 0x33][i.val]) ∧
  (∀ c : Col, (State.reset.cfg.keyAt 0 c).toNat = [0x31, 0x32, 0x33][c.val]) ∧
  (∀ c : Col, (State.reset.cfg.keyAt 1 c).toNat = [0x34, 0x35, 0x36][c.val]) ∧
  (∀ c : Col, (State.reset.cfg.keyAt 2 c).toNat = [0x37, 0x38, 0x39][c.val]) ∧
  (∀ c : Col, (State.reset.cfg.keyAt 3 c).toNat = [0x2A, 0x30, 0x23][c.val])

/-! ## The step -/

/-- 10 R28, 30 R75, R76: the next turn of the schedule runs the decoded µop, or the one the phase names, or a handler;
with no turn fixed, some agent takes it. 10 R35: an agent's turn is its step, and ENV's press adds the key, its release
removes it, and nothing else changes but the step log. Around `exec`, the step only takes the turn off the schedule. -/
def Obligations.StepRunsTheDecodedMicroOp : Prop :=
  ∀ (s : State) (rest : List Turn),
    (∀ w i, s.sched = .handed w :: rest → decode w = .ok i → (i.isHandler = true ∨ s.phase.instr = i) →
      step s = exec i { s with sched := rest }) ∧
    (s.sched = .agent .main :: rest → step s = exec s.phase.instr { s with sched := rest }) ∧
    (s.sched = .agent .tick :: rest → step s = exec .tick { s with sched := rest }) ∧
    (s.sched = .agent .edge :: rest → step s = exec .edge { s with sched := rest }) ∧
    (s.sched = [] → ∃ a, step s = perform a { s with draws := s.draws + 1 }) ∧
    (∀ a, s.sched = .agent a :: rest → step s = perform a { s with sched := rest }) ∧
    (∀ k, ∃ t, perform (.press k) s = .next t ∧ (∀ x, x ∈ t.pressed ↔ x = k ∨ x ∈ s.pressed) ∧
      t = { s with pressed := t.pressed, stepLog := s.stepLog ++ [.press k] }) ∧
    (∀ k, ∃ t, perform (.release k) s = .next t ∧ (∀ x, x ∈ t.pressed ↔ x ≠ k ∧ x ∈ s.pressed) ∧
      t = { s with pressed := t.pressed, stepLog := s.stepLog ++ [.release k] })

/-- 10 R28: the µop each phase names; a SEQ goes on with the rest of its list, or with `nxt`, which is DISPATCH or
SCAN_DRIVE(0) (10 R27); no other agent's step changes the phase. -/
def Obligations.PhaseNamesItsMicroOp : Prop :=
  ∀ s : State,
    (s.phase = .dispatch → perform .main s = exec .disp s) ∧
    (∀ r, s.phase = .scanDrive r → perform .main s = exec (.rowdrv r) s) ∧
    (∀ r, s.phase = .scanSettle r → perform .main s = exec (.wait .settle) s) ∧
    (∀ r, s.phase = .scanSample r → perform .main s = exec (.sample r) s) ∧
    (∀ r k, s.phase = .scanRwait r k → perform .main s = exec (.rwait r) s) ∧
    (∀ r k, s.phase = .scanRet r k → perform .main s = exec (.rowrel r) s) ∧
    (∀ r, s.phase = .scanNext r → perform .main s = exec (.rowrel r) s) ∧
    (∀ k, s.phase = .key k → perform .main s = exec (.bufapp k) s) ∧
    (s.phase = .compare → perform .main s = exec .cmp s) ∧
    (∀ l q nxt, s.phase = .seq (.act l) q nxt → perform .main s = exec (.act l) s) ∧
    (∀ p v q nxt, s.phase = .seq (.pinw p v) q nxt → perform .main s = exec (.pinw p v) s) ∧
    (∀ q nxt, s.phase = .seq .bufclr q nxt → perform .main s = exec .bufclr s) ∧
    (∀ st q nxt, s.phase = .seq (.setst st) q nxt → perform .main s = exec (.setst st) s) ∧
    (∀ q nxt, s.phase = .seq .pclr q nxt → perform .main s = exec .pclr s) ∧
    (∀ q nxt, s.phase = .seq .waitFlash q nxt → perform .main s = exec (.wait .flash) s) ∧
    (∀ u q nxt t, s.phase = .seq u q nxt → u ≠ .setst 3#2 → perform .main s = .next t →
      (q = [] → nxt = .dispatch → t.phase = .dispatch) ∧ (q = [] → nxt = .scan → t.phase = .scanDrive 0) ∧
      (∀ v rest, q = v :: rest → t.phase = .seq v rest nxt)) ∧
    (∀ a t, a ≠ .main → a ≠ .reset → perform a s = .next t → t.phase = s.phase)

/-- 30 R75, 60 R200: an illegal word handed as a step raises F_ILLEGAL_WORD with the word, and changes nothing else. -/
def Obligations.IllegalWordRaisesItsFault : Prop :=
  ∀ (s : State) (w : Word) (rest : List Turn) (e : Illegal), s.sched = .handed w :: rest → decode w = .error e →
    step s = .next { s with sched := rest, fault := 1#2, trace := s.trace ++ [.fault 1#2 w.toNat] }

/-- The model's choice (log 11), from 10 R28: the word of a MAIN µop the phase does not name stops the model. -/
def Obligations.WordNotNamedByPhaseStops : Prop :=
  ∀ (s : State) (w : Word) (i : Instr) (rest : List Turn), s.sched = .handed w :: rest → decode w = .ok i →
    i.isHandler = false → s.phase.instr ≠ i → step s = .fault (.wordNotNamedByPhase w)

/-- The model's reading (log 9) of 60 R200: a raised fault changes the fault register and the trace and nothing else
but the step log. The two ill-formed µop terms raise F_ILLEGAL_WORD with their word (log 13). -/
def Obligations.RaisedFaultsChangeNothingElse : Prop :=
  ∀ s : State,
    (s.ls = 3#2 → exec .disp s = .next { s with
      fault := 3#2, trace := s.trace ++ [.fault 3#2 3], stepLog := s.stepLog ++ [.word 0x3000#16] }) ∧
    (∀ k : Byte, k ≠ 0#8 → 4 ≤ s.len.toNat → exec (.bufapp k) s = .next { s with
      fault := 2#2
      trace := s.trace ++ [.fault 2#2 s.len.toNat]
      stepLog := s.stepLog ++ [.word (0xC000#16 ||| k.setWidth 16)] }) ∧
    exec (.setst 3#2) s = .next { s with fault := 1#2, trace := s.trace ++ [.fault 1#2 0xE003] } ∧
    exec (.bufapp 0#8) s = .next { s with fault := 1#2, trace := s.trace ++ [.fault 1#2 0xC000] }

/-! ## The µops: what each leaves, and that nothing else changes -/

/-- 40 R100: TICK, in every state. -/
def Obligations.TickLowersTheCounter : Prop :=
  encode .tick = 0x1000#16 ∧ ∀ s : State,
    exec .tick s = .next { s with
      dc := if 0 < s.dc.toNat then BitVec.ofNat 8 (s.dc.toNat - 1) else s.dc
      stepLog := s.stepLog ++ [.word 0x1000#16] }

/-- 41 R110: EDGE, in every state. -/
def Obligations.EdgeSetsTheFlagWhenUnguarded : Prop :=
  encode .edge = 0x2000#16 ∧ ∀ s : State,
    exec .edge s = .next { s with
      pend := if s.dc.toNat = 0 then true else s.pend
      dc := if s.dc.toNat = 0 then s.cfg.guard else s.dc
      stepLog := s.stepLog ++ [.word 0x2000#16] }

/-- 44 R170: DISP, for each value of `ls`, `pend` and BTN_IN_ENTRY; the order of a SETIND is a draw of one
bit, and the drawn bits used up are the model's own fields (log 6). -/
def Obligations.DispChoosesTheWork : Prop :=
  encode .disp = 0x3000#16 ∧ ∀ s : State, s.phase = .dispatch →
    ((s.ls = 0#2 ∨ s.ls = 2#2) → s.pend = false →
      exec .disp s = .next { s with stepLog := s.stepLog ++ [.word 0x3000#16] }) ∧
    (s.ls = 0#2 → s.pend = true →
      ∃ redFirst : Bool, exec .disp s = .next { s with
        choices := s.choices.drop 1
        draws := s.draws + (1 - s.choices.length)
        phase := .seq .bufclr
          ((if redFirst then [.pinw .red false, .pinw .green false] else [.pinw .green false, .pinw .red false])
            ++ [.setst 1#2, .pclr]) .dispatch
        stepLog := s.stepLog ++ [.word 0x3000#16] }) ∧
    (s.ls = 2#2 → s.pend = true →
      ∃ redFirst : Bool, exec .disp s = .next { s with
        choices := s.choices.drop 1
        draws := s.draws + (1 - s.choices.length)
        phase := .seq .bufclr
          (.act true ::
            (if redFirst then [.pinw .red true, .pinw .green false] else [.pinw .green false, .pinw .red true])
            ++ [.setst 0#2, .pclr]) .dispatch
        stepLog := s.stepLog ++ [.word 0x3000#16] }) ∧
    (s.ls = 1#2 →
      exec .disp s = .next { s with
        phase := if s.cfg.btn = .discard ∧ s.pend = true then .seq .pclr [] .scan else .scanDrive 0
        stepLog := s.stepLog ++ [.word 0x3000#16] }) ∧
    (s.ls = 3#2 → ∃ t, exec .disp s = .next t ∧ t.fault = 3#2 ∧ t.trace = s.trace ++ [.fault 3#2 3])

/-- 42 R125: ROWDRV r in its phase. -/
def Obligations.RowdrvDrivesItsRowLow : Prop :=
  ∀ (r : Row) (s : State), s.phase = .scanDrive r →
    ∃ t, exec (.rowdrv r) s = .next t ∧
      (∀ q : Row, t.rowOut.getLsbD q.val = if q = r then false else s.rowOut.getLsbD q.val) ∧
      t = { s with
        rowOut := t.rowOut
        trace := s.trace ++ [.row r false]
        phase := .scanSettle r
        stepLog := s.stepLog ++ [.word (0x4000#16 ||| BitVec.ofNat 16 r.val)] }

/-- 42 R126: WAIT SETTLE in the settle phase and WAIT FLASH in a queue change the phase only. -/
def Obligations.WaitChangesThePhaseOnly : Prop :=
  (∀ (r : Row) (s : State), s.phase = .scanSettle r →
    exec (.wait .settle) s = .next { s with
      phase := .scanSample r, stepLog := s.stepLog ++ [.word 0x6000#16] }) ∧
  (∀ (q : List SeqOp) (nxt : SeqNext) (s : State), s.phase = .seq .waitFlash q nxt →
    exec (.wait .flash) s = .next { s with
      phase := enqueue q nxt, stepLog := s.stepLog ++ [.word 0x6001#16] })

/-- 42 R127: SAMPLE r picks the first low column's key, or goes on to the next row; it uses up one drawn bit for each
contended column (42 R122), and the drawn bits are the model's own fields (log 6). -/
def Obligations.SamplePicksTheFirstLowColumn : Prop :=
  ∀ (r : Row) (s : State), s.phase = .scanSample r →
    (s.colIn = 0b111#3 →
      exec (.sample r) s = .next { s with
        choices := s.choices.drop (bitsSampled s)
        draws := s.draws + (bitsSampled s - s.choices.length)
        phase := .scanNext r
        stepLog := s.stepLog ++ [.word (0x7000#16 ||| BitVec.ofNat 16 r.val)] }) ∧
    (∀ c : Col, s.colIn.getLsbD c.val = false → (∀ d : Col, d < c → s.colIn.getLsbD d.val = true) →
      exec (.sample r) s = .next { s with
        choices := s.choices.drop (bitsSampled s)
        draws := s.draws + (bitsSampled s - s.choices.length)
        phase := .scanRwait r (s.cfg.keymap.extractLsb' (8 * (3 * r.val + c.val)) 8)
        stepLog := s.stepLog ++ [.word (0x7000#16 ||| BitVec.ofNat 16 r.val)] })

/-- 42 R122: the sample of a column is exact unless the column is contended; the contended columns are separate draws,
so any values of all of them together can be drawn, and whatever is drawn after the sample (log 6). -/
def Obligations.ColumnSampleIsExactOrADraw : Prop :=
  ∀ s : State,
    (∀ c : Col, ¬ ColumnContended s c →
      (s.colIn.getLsbD c.val = true ↔ ∀ r : Row, (r, c) ∈ s.pressed → s.rowOut.getLsbD r.val = true)) ∧
    ∀ (level : Col → Bool) (later : List Bool), ∃ drawn : List Bool,
      (∀ c : Col, ColumnContended s c → ({ s with choices := drawn } : State).colIn.getLsbD c.val = level c) ∧
      (∀ r : Row, ∃ t, exec (.sample r) { s with choices := drawn } = .next t ∧ t.choices = later) ∧
      (∀ r : Row, ∃ t, exec (.rwait r) { s with choices := drawn } = .next t ∧ t.choices = later)

/-- 42 R128: RWAIT r passes when every column is high, and otherwise MAIN holds; its sample uses up one drawn bit for
each contended column. That a held turn is a next state in which only drawn bits are used up is the model's choice
(log 5, log 6). -/
def Obligations.RwaitPassesOrHolds : Prop :=
  ∀ (r : Row) (k : Byte) (s : State), s.phase = .scanRwait r k →
    (s.colIn = 0b111#3 →
      exec (.rwait r) s = .next { s with
        choices := s.choices.drop (bitsSampled s)
        draws := s.draws + (bitsSampled s - s.choices.length)
        phase := .scanRet r k
        stepLog := s.stepLog ++ [.word (0x8000#16 ||| BitVec.ofNat 16 r.val)] }) ∧
    (s.colIn ≠ 0b111#3 →
      exec (.rwait r) s = .next { s with
        choices := s.choices.drop (bitsSampled s)
        draws := s.draws + (bitsSampled s - s.choices.length) })

/-- 42 R129: ROWREL r restores the row and returns the key, or goes on. -/
def Obligations.RowrelRestoresItsRow : Prop :=
  ∀ (r : Row) (s : State) (p : Phase),
    ((∃ k, s.phase = .scanRet r k ∧ p = .key k) ∨
      (s.phase = .scanNext r ∧ (∃ q : Row, q.val = r.val + 1 ∧ p = .scanDrive q)) ∨
      (s.phase = .scanNext r ∧ r = 3 ∧ p = .dispatch)) →
    ∃ t, exec (.rowrel r) s = .next t ∧
      (∀ q : Row, t.rowOut.getLsbD q.val = if q = r then true else s.rowOut.getLsbD q.val) ∧
      t = { s with
        rowOut := t.rowOut
        trace := s.trace ++ [.row r true]
        phase := p
        stepLog := s.stepLog ++ [.word (0x5000#16 ||| BitVec.ofNat 16 r.val)] }

/-- 43 R150: ACT L writes the duty constant. -/
def Obligations.ActWritesTheDutyConstant : Prop :=
  ∀ (locked : Bool) (q : List SeqOp) (nxt : SeqNext) (s : State), s.phase = .seq (.act locked) q nxt →
    exec (.act locked) s = .next { s with
      pwmCmp := if locked then s.cfg.dutyLocked else s.cfg.dutyUnlocked
      trace := s.trace ++ [.pwm (if locked then s.cfg.dutyLocked else s.cfg.dutyUnlocked)]
      phase := enqueue q nxt
      stepLog := s.stepLog ++ [.word (if locked then 0x9001#16 else 0x9000#16)] }

/-- 43 R151: PINW pin, v writes one indicator and not the other. -/
def Obligations.PinwWritesOneIndicator : Prop :=
  ∀ (v : Bool) (q : List SeqOp) (nxt : SeqNext) (s : State),
    (s.phase = .seq (.pinw .red v) q nxt →
      exec (.pinw .red v) s = .next { s with
        ledRed := v
        trace := s.trace ++ [.red v]
        phase := enqueue q nxt
        stepLog := s.stepLog ++ [.word (if v then 0xA001#16 else 0xA000#16)] }) ∧
    (s.phase = .seq (.pinw .green v) q nxt →
      exec (.pinw .green v) s = .next { s with
        ledGreen := v
        trace := s.trace ++ [.green v]
        phase := enqueue q nxt
        stepLog := s.stepLog ++ [.word (if v then 0xA003#16 else 0xA002#16)] })

/-- 44 R173: BUFCLR clears the count and leaves the bytes. -/
def Obligations.BufclrClearsTheCount : Prop :=
  ∀ (q : List SeqOp) (nxt : SeqNext) (s : State), s.phase = .seq .bufclr q nxt →
    exec .bufclr s = .next { s with
      len := 0#3, phase := enqueue q nxt, stepLog := s.stepLog ++ [.word 0xB000#16] }

/-- 44 R174, 20 R50: BUFAPP k writes byte `len`, counts, and flashes or goes to the comparison; on a full buffer it
raises F_BUF_OVERFLOW and writes nothing. -/
def Obligations.BufappAppendsOrOverflows : Prop :=
  ∀ (k : Byte) (s : State), s.phase = .key k → k ≠ 0#8 →
    (s.len.toNat < 4 → ∃ t, exec (.bufapp k) s = .next t ∧
      t.bufRead s.len.toNat = k ∧ (∀ a, a ≠ s.len.toNat → t.bufRead a = s.bufRead a) ∧
      t = { s with
        buf := t.buf
        len := BitVec.ofNat 3 (s.len.toNat + 1)
        phase := if s.len.toNat + 1 < 4
          then .seq (.pinw .green true) [.waitFlash, .pinw .green false] .dispatch else .compare
        stepLog := s.stepLog ++ [.word (0xC000#16 ||| k.setWidth 16)] }) ∧
    (4 ≤ s.len.toNat → ∃ t, exec (.bufapp k) s = .next t ∧ t.fault = 2#2 ∧
      t.trace = s.trace ++ [.fault 2#2 s.len.toNat] ∧ t.buf = s.buf)

/-- 44 R175, R178, R179: CMP enqueues T_OK exactly when the buffer is full and equal to the reference code at every
position, and T_BAD otherwise; the order of their SETIND is a draw of one bit (log 6). -/
def Obligations.CmpComparesEveryPosition : Prop :=
  ∀ s : State, s.phase = .compare →
    ((s.len.toNat = 4 ∧ ∀ i : Fin 4, s.bufRead i.val = s.cfg.ref.extractLsb' (8 * i.val) 8) →
      ∃ redFirst : Bool, exec .cmp s = .next { s with
        choices := s.choices.drop 1
        draws := s.draws + (1 - s.choices.length)
        phase := .seq (.act false)
          ((if redFirst then [.pinw .red false, .pinw .green true] else [.pinw .green true, .pinw .red false])
            ++ [.bufclr, .setst 2#2]) .dispatch
        stepLog := s.stepLog ++ [.word 0xD000#16] }) ∧
    (¬ (s.len.toNat = 4 ∧ ∀ i : Fin 4, s.bufRead i.val = s.cfg.ref.extractLsb' (8 * i.val) 8) →
      ∃ redFirst : Bool, exec .cmp s = .next { s with
        choices := s.choices.drop 1
        draws := s.draws + (1 - s.choices.length)
        phase := .seq (.act true)
          ((if redFirst then [.pinw .red true, .pinw .green false] else [.pinw .green false, .pinw .red true])
            ++ [.bufclr, .setst 0#2]) .dispatch
        stepLog := s.stepLog ++ [.word 0xD000#16] })

/-- 44 R176: SETST s writes the lock state. -/
def Obligations.SetstWritesTheLockState : Prop :=
  ∀ (st : LockCode) (q : List SeqOp) (nxt : SeqNext) (s : State), s.phase = .seq (.setst st) q nxt → st ≠ 3#2 →
    exec (.setst st) s = .next { s with
      ls := st
      phase := enqueue q nxt
      stepLog := s.stepLog ++ [.word (0xE000#16 ||| st.setWidth 16)] }

/-- 44 R177: PCLR clears the flag and leaves the guard running. -/
def Obligations.PclrConsumesTheEvent : Prop :=
  ∀ (q : List SeqOp) (nxt : SeqNext) (s : State), s.phase = .seq .pclr q nxt →
    exec .pclr s = .next { s with
      pend := false, phase := enqueue q nxt, stepLog := s.stepLog ++ [.word 0xF000#16] }

/-- 43 R152, 92 D10: either order of SETIND's two writes can be drawn, in each of the four transitions, and whatever is
drawn after it (log 6). -/
def Obligations.EitherIndicatorOrderCanBeDrawn : Prop :=
  ∀ (s : State) (redFirst : Bool) (later : List Bool), ∃ drawn : List Bool,
    (s.ls = 0#2 → s.pend = true → ∃ t, exec .disp { s with choices := drawn } = .next t ∧ t.choices = later ∧
      t.phase = .seq .bufclr
        ((if redFirst then [.pinw .red false, .pinw .green false] else [.pinw .green false, .pinw .red false])
          ++ [.setst 1#2, .pclr]) .dispatch) ∧
    (s.ls = 2#2 → s.pend = true → ∃ t, exec .disp { s with choices := drawn } = .next t ∧ t.choices = later ∧
      t.phase = .seq .bufclr
        (.act true ::
          (if redFirst then [.pinw .red true, .pinw .green false] else [.pinw .green false, .pinw .red true])
          ++ [.setst 0#2, .pclr]) .dispatch) ∧
    (s.codeMatches = true → ∃ t, exec .cmp { s with choices := drawn } = .next t ∧ t.choices = later ∧
      t.phase = .seq (.act false)
        ((if redFirst then [.pinw .red false, .pinw .green true] else [.pinw .green true, .pinw .red false])
          ++ [.bufclr, .setst 2#2]) .dispatch) ∧
    (s.codeMatches = false → ∃ t, exec .cmp { s with choices := drawn } = .next t ∧ t.choices = later ∧
      t.phase = .seq (.act true)
        ((if redFirst then [.pinw .red true, .pinw .green false] else [.pinw .green false, .pinw .red true])
          ++ [.bufclr, .setst 0#2]) .dispatch)

/-! ## Frames -/

/-- 10 R20, R39: a register changes only by the µops its "written by" column names, in every state. -/
def Obligations.OnlyTheListedMicroOpsWriteARegister : Prop :=
  ∀ (i : Instr) (s t : State), exec i s = .next t →
    (t.ls ≠ s.ls → ∃ st, i = .setst st) ∧
    (t.len ≠ s.len → i = .bufclr ∨ ∃ k, i = .bufapp k) ∧
    (t.buf ≠ s.buf → ∃ k, i = .bufapp k) ∧
    (t.dc ≠ s.dc → i = .tick ∨ i = .edge) ∧
    (t.pend ≠ s.pend → i = .edge ∨ i = .pclr) ∧
    (t.phase ≠ s.phase → i.isHandler = false) ∧
    (t.rowOut ≠ s.rowOut → ∃ r, i = .rowdrv r ∨ i = .rowrel r) ∧
    (t.ledRed ≠ s.ledRed → ∃ v, i = .pinw .red v) ∧
    (t.ledGreen ≠ s.ledGreen → ∃ v, i = .pinw .green v) ∧
    (t.pwmCmp ≠ s.pwmCmp → ∃ l, i = .act l) ∧
    (t.fault ≠ s.fault → i = .disp ∨ (∃ k, i = .bufapp k) ∨ i = .setst 3#2) ∧
    (t.trace ≠ s.trace → i = .disp ∨ (∃ r, i = .rowdrv r ∨ i = .rowrel r) ∨ (∃ l, i = .act l) ∨
      (∃ p v, i = .pinw p v) ∨ (∃ k, i = .bufapp k) ∨ i = .setst 3#2) ∧
    (t.choices ≠ s.choices ∨ t.draws ≠ s.draws →
      i = .disp ∨ i = .cmp ∨ ∃ r, i = .sample r ∨ i = .rwait r) ∧
    t.pressed = s.pressed ∧ t.cfg = s.cfg ∧ t.sched = s.sched ∧ t.bootDraw = s.bootDraw

/-- 20 R50, R56: every byte of the buffer reads as before, but the one BUFAPP stores at index `len`. -/
def Obligations.BufferBytesChangeOnlyWhereStored : Prop :=
  (∀ (i : Instr) (s t : State) (a : Nat), (∀ k, i ≠ .bufapp k) → exec i s = .next t → t.bufRead a = s.bufRead a) ∧
  (∀ (k : Byte) (s t : State) (a : Nat), exec (.bufapp k) s = .next t →
    ¬ (k ≠ 0#8 ∧ s.len.toNat < 4 ∧ a = s.len.toNat) → t.bufRead a = s.bufRead a)

/-- 10 R33, 30 R76: but for a reset, a step adds at the end of the output trace and of the step log, and the step log
grows by at most one entry. -/
def Obligations.TraceAndStepLogOnlyGrow : Prop :=
  ∀ s t : State, s.nextTurn ≠ .agent .reset → step s = .next t →
    (∃ es, t.trace = s.trace ++ es ∧ es.length ≤ 1) ∧ (∃ es, t.stepLog = s.stepLog ++ es ∧ es.length ≤ 1)

/-- 00 R7: no step of any agent writes a parameter. -/
def Obligations.NoStepWritesAParameter : Prop :=
  ∀ s t : State, step s = .next t → t.cfg = s.cfg

/-- 10 R26, 92 D30: but for a reset, no step clears `fault`. -/
def Obligations.FaultIsSticky : Prop :=
  ∀ s t : State, s.nextTurn ≠ .agent .reset → step s = .next t → s.fault ≠ 0#2 → t.fault ≠ 0#2

/-- 10 R21, R39: but for a reset, `ls` changes only by MAIN's SETST of the new value, named by the phase, in MAIN's
turn or handed as that word (log 11); so EnteringCode is left only so (44 R183). -/
def Obligations.LockStateChangesOnlyBySetst : Prop :=
  ∀ s t : State, step s = .next t → t.ls ≠ s.ls →
    s.nextTurn = .agent .reset ∨
      s.phase.instr = .setst t.ls ∧ (s.nextTurn = .agent .main ∨ s.nextTurn = .handed (encode (.setst t.ls)))

/-! ## Invariants -/

/-- 10 R40: the invariants hold at reset. -/
def Obligations.InvariantsHoldAtReset : Prop :=
  RowsMatchPhase State.reset ∧ BufferMatchesPhase State.reset ∧ HeldKeyIsAKey State.reset ∧
  GuardBounded State.reset ∧ Canonical State.reset ∧ BytesBelowLenWritten State.reset

/-- 10 R29: a row line is low exactly in the phases of its row. -/
def Obligations.StepKeepsRowsMatchPhase : Prop :=
  ∀ s t : State, RowsMatchPhase s → step s = .next t → RowsMatchPhase t

/-- 44 R181, 42 R121: the buffer's invariants, with the lock state of each phase. -/
def Obligations.StepKeepsBufferMatchesPhase : Prop :=
  ∀ s t : State, BufferMatchesPhase s → step s = .next t → BufferMatchesPhase t

/-- 10 R24: `dc` stays in 0..GUARD. -/
def Obligations.StepKeepsGuardBound : Prop :=
  ∀ s t : State, GuardBounded s → step s = .next t → GuardBounded t

/-- The buffer's contents and the set of closed keys stay in canonical form. -/
def Obligations.StepKeepsCanonicalForms : Prop :=
  ∀ s t : State, Canonical s → step s = .next t → Canonical t

/-- 10 R22: every byte below `len` was written since the reset, so no comparison reads a reset's draw. -/
def Obligations.StepKeepsBytesBelowLenWritten : Prop :=
  ∀ s t : State, BytesBelowLenWritten s → step s = .next t → BytesBelowLenWritten t

/-- 10 R22: with the buffer full of written bytes, what CMP does depends on no byte the reset left. -/
def Obligations.ComparisonIgnoresResetBytes : Prop :=
  ∀ (s : State) (n : Nat), BytesBelowLenWritten s →
    ({ s with bootDraw := n } : State).codeMatches = s.codeMatches

/-- 60 R201: with a legal KEYMAP, from a fault-free state that meets the invariants no step raises a fault, unless it
is handed an illegal word. -/
def Obligations.SequencerRaisesNoFault : Prop :=
  ∀ s t : State, s.cfg.Legal → BufferMatchesPhase s → HeldKeyIsAKey s → s.fault = 0#2 →
    (∀ w, s.nextTurn = .handed w → ∃ i, decode w = .ok i) → step s = .next t →
    t.fault = 0#2 ∧ HeldKeyIsAKey t

/-! ## The handlers -/

/-- 60 R203: a handler preempted by the other after its read leaves what one of the two sequential orders leaves; 60
R204: from `dc = 1` the two orders leave different registers. -/
def Obligations.HandlersNestOrRunInEitherOrder : Prop :=
  ∀ s : State,
    (s.edgeWrite s.dc).tickWrite s.dc =
      (if s.dc = 0#8 then (s.tickWrite s.dc).edgeWrite (s.tickWrite s.dc).dc
        else (s.edgeWrite s.dc).tickWrite (s.edgeWrite s.dc).dc) ∧
    (s.tickWrite s.dc).edgeWrite s.dc =
      (if s.dc = 0#8 then (s.tickWrite s.dc).edgeWrite (s.tickWrite s.dc).dc
        else (s.edgeWrite s.dc).tickWrite (s.edgeWrite s.dc).dc) ∧
    (s.dc = 1#8 →
      (∃ t, performAll [.tick, .edge] s = .next t ∧ t.dc = s.cfg.guard ∧ t.pend = true) ∧
      (∃ t, performAll [.edge, .tick] s = .next t ∧ t.dc = 0#8 ∧ t.pend = s.pend))

/-- 40 R103: after n TICK steps and no EDGE step, `dc' = max(dc - n, 0)`, whatever the other agents do between. -/
def Obligations.TicksAgeTheCounter : Prop :=
  ∀ (as : List Action) (s : State), .edge ∉ as → .reset ∉ as →
    ∃ t, performAll as s = .next t ∧ t.dc.toNat = s.dc.toNat - as.count .tick

/-- 41 R112: among edges with fewer than GUARD ticks between them at most one is accepted, and exactly one when the
first finds `dc = 0`, whatever the other agents do between. -/
def Obligations.AtMostOneEventPerGuardWindow : Prop :=
  ∀ (as : List Action) (s : State), .reset ∉ as → as.count .tick < s.cfg.guard.toNat →
    acceptedEdges as s ≤ 1 ∧ (s.dc = 0#8 → acceptedEdges (.edge :: as) s = 1)

/-- 10 R38: an EDGE that follows an EDGE with no TICK between changes no register, whatever MAIN and the keys do
between. -/
def Obligations.EdgeAfterEdgeChangesNothing : Prop :=
  ∀ (as : List Action) (s t : State), s.cfg.guard ≠ 0#8 → .tick ∉ as → .reset ∉ as →
    performAll (.edge :: as) s = .next t → ∃ u, perform .edge t = .next u ∧ u = { t with stepLog := u.stepLog }

/-- 20 R60, 95 P5: an edge accepted after the DISP of a button transition and before its PCLR is lost: it loads `dc`, and
the PCLR clears `pend`, whatever the other agents do between. The first clause has the edge right before any PCLR. -/
def Obligations.PressBeforePclrIsLost : Prop :=
  (∀ (q : List SeqOp) (nxt : SeqNext) (s : State), s.phase = .seq .pclr q nxt → s.dc = 0#8 →
    ∃ t, performAll [.edge, .main] s = .next t ∧ t.pend = false ∧ t.dc = s.cfg.guard) ∧
  ∀ (pre post : List Action) (s u : State), s.phase = .dispatch → s.pend = true → .reset ∉ pre → .reset ∉ post →
    .main ∈ pre → (s.ls = LockCode.locked ∧ pre.count .main + post.count .main = 5 ∨
      s.ls = LockCode.unlocked ∧ pre.count .main + post.count .main = 6) →
    performAll pre s = .next u → u.dc = 0#8 →
    ∃ v t, perform .edge u = .next v ∧ v.pend = true ∧ v.dc = s.cfg.guard ∧
      performAll (post ++ [.main]) v = .next t ∧ t.phase = .dispatch ∧ t.pend = false ∧
      (.tick ∉ post → t.dc = s.cfg.guard)

/-! ## Runs of MAIN, with any turns of the other agents between -/

/-- 44 R171, R182: from DISPATCH in Locked with an event pending, T_LB ends in EnteringCode with an empty buffer, both
indicators off and the actuator not moved. -/
def Obligations.ButtonInLockedStartsEntry : Prop :=
  ∀ (as : List Action) (s : State), s.phase = .dispatch → s.ls = LockCode.locked → s.pend = true → .reset ∉ as →
    as.count .main = 6 →
    ∃ t, performAll as s = .next t ∧ t.phase = .dispatch ∧ t.ls = LockCode.entering ∧ t.len = 0#3 ∧
      t.ledRed = false ∧ t.ledGreen = false ∧ t.pwmCmp = s.pwmCmp ∧
      (∀ pre post, as = pre ++ .main :: post → .main ∉ post → .edge ∉ post → t.pend = false)

/-- 44 R172: from DISPATCH in Unlocked with an event pending, T_UB ends in Locked, actuator locked, red on, green
off. -/
def Obligations.ButtonInUnlockedLocks : Prop :=
  ∀ (as : List Action) (s : State), s.phase = .dispatch → s.ls = LockCode.unlocked → s.pend = true → .reset ∉ as →
    as.count .main = 7 →
    ∃ t, performAll as s = .next t ∧ t.phase = .dispatch ∧ t.ls = LockCode.locked ∧ t.len = 0#3 ∧
      t.ledRed = true ∧ t.ledGreen = false ∧ t.pwmCmp = s.cfg.dutyLocked ∧
      (∀ pre post, as = pre ++ .main :: post → .main ∉ post → .edge ∉ post → t.pend = false)

/-- 44 R178: at COMPARE with the code equal, T_OK ends in Unlocked, actuator unlocked, green on, red off. -/
def Obligations.RightCodeUnlocks : Prop :=
  ∀ (as : List Action) (s : State), s.phase = .compare → s.codeMatches = true → .reset ∉ as → as.count .main = 6 →
    ∃ t, performAll as s = .next t ∧ t.phase = .dispatch ∧ t.ls = LockCode.unlocked ∧ t.len = 0#3 ∧
      t.ledRed = false ∧ t.ledGreen = true ∧ t.pwmCmp = s.cfg.dutyUnlocked ∧
      (.edge ∉ as → t.pend = s.pend)

/-- 44 R179: at COMPARE with the code different, T_BAD ends in Locked, actuator locked, red on, green off, whatever the
state was before. -/
def Obligations.WrongCodeLocks : Prop :=
  ∀ (as : List Action) (s : State), s.phase = .compare → s.codeMatches = false → .reset ∉ as → as.count .main = 6 →
    ∃ t, performAll as s = .next t ∧ t.phase = .dispatch ∧ t.ls = LockCode.locked ∧ t.len = 0#3 ∧
      t.ledRed = true ∧ t.ledGreen = false ∧ t.pwmCmp = s.cfg.dutyLocked ∧
      (.edge ∉ as → t.pend = s.pend)

/-- 44 R185: a button event retained through code entry re-locks right after the right code. -/
def Obligations.RetainedEventRelocks : Prop :=
  ∀ (as : List Action) (s : State), s.phase = .compare → s.codeMatches = true → s.pend = true → .reset ∉ as →
    as.count .main = 13 →
    ∃ t, performAll as s = .next t ∧ t.phase = .dispatch ∧ t.ls = LockCode.locked ∧ t.pwmCmp = s.cfg.dutyLocked ∧
      t.ledRed = true ∧ t.ledGreen = false

/-- 44 R180, 70 R231: with no button event, the block idles in Locked and in Unlocked, whatever keys are pressed. -/
def Obligations.IdleWithoutButtonEvents : Prop :=
  ∀ (as : List Action) (s : State), s.phase = .dispatch → (s.ls = LockCode.locked ∨ s.ls = LockCode.unlocked) →
    s.pend = false → .edge ∉ as → .reset ∉ as →
    ∃ t, performAll as s = .next t ∧
      t = { s with dc := t.dc, pressed := t.pressed, stepLog := t.stepLog }

/-- 42 R130: a scan with no key closed is 16 MAIN steps and leaves the rows, the lock state and the buffer as they
were. -/
def Obligations.ScanWithNoKeyIsSixteenSteps : Prop :=
  ∀ (as : List Action) (s : State), s.phase = .scanDrive 0 → s.rowOut = 0b1111#4 → s.pressed = [] →
    (∀ k, .press k ∉ as) → .reset ∉ as → as.count .main = 16 →
    ∃ t, performAll as s = .next t ∧ t.phase = .dispatch ∧ t.rowOut = 0b1111#4 ∧ t.ls = s.ls ∧ t.len = s.len ∧
      t.buf = s.buf

/-- 42 R130, R131: with one key (r, c) closed and kept closed, MAIN holds in the release wait of row r after 4r + 3
steps; when the key opens, two more steps return the character. -/
def Obligations.ScanReturnsTheClosedKey : Prop :=
  ∀ (as : List Action) (s : State) (r : Row) (c : Col), s.phase = .scanDrive 0 → s.rowOut = 0b1111#4 →
    s.pressed = [(r, c)] → (∀ k, .press k ∉ as ∧ .release k ∉ as) → .reset ∉ as → 4 * r.val + 3 ≤ as.count .main →
    ∃ t u, performAll as s = .next t ∧ t.phase = .scanRwait r (s.cfg.keyAt r c) ∧
      performAll [.release (r, c), .main, .main] t = .next u ∧ u.phase = .key (s.cfg.keyAt r c) ∧
      u.rowOut = 0b1111#4

/-! ## Fair schedules -/

/-- 40 R102: under fair ticks every guard window ends. -/
def Obligations.GuardWindowEnds : Prop :=
  ∀ (σ : Nat → Action) (s : State), TickFair σ → ∃ n t, runOf σ s n = .next t ∧ t.dc = 0#8

/-- 44 R186: under a fair MAIN every queue of µops drains: nothing in a SEQ holds MAIN. -/
def Obligations.QueueDrainsUnderFairMain : Prop :=
  ∀ (σ : Nat → Action) (s : State) (u : SeqOp) (q : List SeqOp) (nxt : SeqNext), MainFair σ s →
    (∀ n, σ n ≠ .reset) → s.phase = .seq u q nxt → .setst 3#2 ∉ u :: q →
    ∃ n t, runOf σ s n = .next t ∧
      (nxt = .dispatch → t.phase = .dispatch) ∧ (nxt = .scan → t.phase = .scanDrive 0)

/-- 60 R207, 70 R240: the release wait ends once ENV opens every closed key and, from some turn on, closes no other. -/
def Obligations.ReleaseWaitEndsUnderReleaseDuty : Prop :=
  ∀ (σ : Nat → Action) (s : State) (r : Row) (k : Byte) (last : Nat), MainFair σ s → ReleaseDuty σ s →
    (∀ n, σ n ≠ .reset) → (∀ n x, last ≤ n → σ n ≠ .press x) → s.phase = .scanRwait r k →
    ∃ n t, runOf σ s n = .next t ∧ t.phase = .scanRet r k

/-! ## The timed refinement -/

/-- 70 R248: in a timed run two edges less than TICK_PERIOD apart have at most one tick between them, and with GUARD at
least 2 at most one of them and of the edges between is accepted; exactly one when the first finds `dc = 0` (95 W3). So a
run whose edges all lie within a TICK_PERIOD gives at most one event. The timed run is the model's (log 18, log 25). -/
def Obligations.EdgesWithinAPeriodGiveAtMostOneEvent : Prop :=
  ∀ (l : List (Time × Action)) (s t : State) (since start finish : Time), TimedRun l s t since start finish →
    (∀ pre mid post x y, l = pre ++ (x, .edge) :: mid ++ (y, .edge) :: post → y < x + s.cfg.tickMs →
      (mid.map (·.2)).count .tick ≤ 1 ∧
      (2 ≤ s.cfg.guard.toNat → ∀ u, performAll (pre.map (·.2)) s = .next u →
        acceptedEdges (.edge :: mid.map (·.2) ++ [.edge]) u ≤ 1 ∧
        (u.dc = 0#8 → acceptedEdges (.edge :: mid.map (·.2) ++ [.edge]) u = 1))) ∧
    (2 ≤ s.cfg.guard.toNat → (∀ x ∈ timesOf .edge l, ∀ y ∈ timesOf .edge l, y < x + s.cfg.tickMs) →
      acceptedEdges (l.map (·.2)) s ≤ 1)

/-- 40 R104: in a timed run that follows an edge accepted at time `t0`, the first tick t1 comes in (t0, t0 + TICK_PERIOD],
and the counter first reaches 0 at the GUARD-th tick, at t1 + (GUARD - 1) TICK_PERIOD, which lies in
(t0 + (GUARD - 1) TICK_PERIOD, t0 + GUARD TICK_PERIOD]. The timed run is the model's (log 18, log 25). -/
def Obligations.GuardWindowLastsGuardTicks : Prop :=
  ∀ (l : List (Time × Action)) (r s t : State) (since t0 finish : Time),
    r.dc = 0#8 → r.cfg.guard ≠ 0#8 → perform .edge r = .next s → TimedRun l s t since t0 finish →
    ∃ t1 opens : Time, t0 < t1 ∧ t1 ≤ t0 + r.cfg.tickMs ∧
      (∀ x, (timesOf .tick l).head? = some x → x = t1) ∧
      opens = t1 + ((r.cfg.guard.toNat : Time) - 1) * r.cfg.tickMs ∧
      t0 + ((r.cfg.guard.toNat : Time) - 1) * r.cfg.tickMs < opens ∧
      opens ≤ t0 + (r.cfg.guard.toNat : Time) * r.cfg.tickMs ∧
      (finish < opens → t.dc ≠ 0#8) ∧
      (opens ≤ finish → ∃ pre post u v, l = pre ++ (opens, .tick) :: post ∧
        (pre.map (·.2)).count .tick + 1 = r.cfg.guard.toNat ∧ performAll (pre.map (·.2)) s = .next u ∧
        perform .tick u = .next v ∧ v.dc = 0#8 ∧
        ∀ p w, p <+: pre → performAll (p.map (·.2)) s = .next w → w.dc ≠ 0#8)
end

