-- ==== Sys2Proof/Laws/State.lean ====
section
/-! SUPPORT. One lemma per field per named update of State, each true by unfolding the update once. -/

namespace Sys2Proof.Machine

/-! ### `s.logStep i` -/

section

variable (s : State) (i : Instr)

@[simp] theorem State.logStep_ls : (s.logStep i).ls = s.ls := rfl
@[simp] theorem State.logStep_buf : (s.logStep i).buf = s.buf := rfl
@[simp] theorem State.logStep_len : (s.logStep i).len = s.len := rfl
@[simp] theorem State.logStep_dc : (s.logStep i).dc = s.dc := rfl
@[simp] theorem State.logStep_pend : (s.logStep i).pend = s.pend := rfl
@[simp] theorem State.logStep_phase : (s.logStep i).phase = s.phase := rfl
@[simp] theorem State.logStep_rowOut : (s.logStep i).rowOut = s.rowOut := rfl
@[simp] theorem State.logStep_ledRed : (s.logStep i).ledRed = s.ledRed := rfl
@[simp] theorem State.logStep_ledGreen : (s.logStep i).ledGreen = s.ledGreen := rfl
@[simp] theorem State.logStep_pwmCmp : (s.logStep i).pwmCmp = s.pwmCmp := rfl
@[simp] theorem State.logStep_fault : (s.logStep i).fault = s.fault := rfl
@[simp] theorem State.logStep_pressed : (s.logStep i).pressed = s.pressed := rfl
@[simp] theorem State.logStep_trace : (s.logStep i).trace = s.trace := rfl
@[simp] theorem State.logStep_stepLog : (s.logStep i).stepLog = s.stepLog ++ [.word (encode i)] := rfl
@[simp] theorem State.logStep_cfg : (s.logStep i).cfg = s.cfg := rfl
@[simp] theorem State.logStep_sched : (s.logStep i).sched = s.sched := rfl
@[simp] theorem State.logStep_choices : (s.logStep i).choices = s.choices := rfl
@[simp] theorem State.logStep_draws : (s.logStep i).draws = s.draws := rfl
@[simp] theorem State.logStep_bootDraw : (s.logStep i).bootDraw = s.bootDraw := rfl

end

/-! ### `s.raise code info` -/

section

variable (s : State) (code : BitVec 2) (info : Nat)

@[simp] theorem State.raise_ls : (s.raise code info).ls = s.ls := rfl
@[simp] theorem State.raise_buf : (s.raise code info).buf = s.buf := rfl
@[simp] theorem State.raise_len : (s.raise code info).len = s.len := rfl
@[simp] theorem State.raise_dc : (s.raise code info).dc = s.dc := rfl
@[simp] theorem State.raise_pend : (s.raise code info).pend = s.pend := rfl
@[simp] theorem State.raise_phase : (s.raise code info).phase = s.phase := rfl
@[simp] theorem State.raise_rowOut : (s.raise code info).rowOut = s.rowOut := rfl
@[simp] theorem State.raise_ledRed : (s.raise code info).ledRed = s.ledRed := rfl
@[simp] theorem State.raise_ledGreen : (s.raise code info).ledGreen = s.ledGreen := rfl
@[simp] theorem State.raise_pwmCmp : (s.raise code info).pwmCmp = s.pwmCmp := rfl
@[simp] theorem State.raise_fault : (s.raise code info).fault = code := rfl
@[simp] theorem State.raise_pressed : (s.raise code info).pressed = s.pressed := rfl
@[simp] theorem State.raise_trace : (s.raise code info).trace = s.trace ++ [.fault code info] := rfl
@[simp] theorem State.raise_stepLog : (s.raise code info).stepLog = s.stepLog := rfl
@[simp] theorem State.raise_cfg : (s.raise code info).cfg = s.cfg := rfl
@[simp] theorem State.raise_sched : (s.raise code info).sched = s.sched := rfl
@[simp] theorem State.raise_choices : (s.raise code info).choices = s.choices := rfl
@[simp] theorem State.raise_draws : (s.raise code info).draws = s.draws := rfl
@[simp] theorem State.raise_bootDraw : (s.raise code info).bootDraw = s.bootDraw := rfl

end

/-! ### `s.raiseIllegal w` -/

section

variable (s : State) (w : Word)

@[simp] theorem State.raiseIllegal_ls : (s.raiseIllegal w).ls = s.ls := rfl
@[simp] theorem State.raiseIllegal_buf : (s.raiseIllegal w).buf = s.buf := rfl
@[simp] theorem State.raiseIllegal_len : (s.raiseIllegal w).len = s.len := rfl
@[simp] theorem State.raiseIllegal_dc : (s.raiseIllegal w).dc = s.dc := rfl
@[simp] theorem State.raiseIllegal_pend : (s.raiseIllegal w).pend = s.pend := rfl
@[simp] theorem State.raiseIllegal_phase : (s.raiseIllegal w).phase = s.phase := rfl
@[simp] theorem State.raiseIllegal_rowOut : (s.raiseIllegal w).rowOut = s.rowOut := rfl
@[simp] theorem State.raiseIllegal_ledRed : (s.raiseIllegal w).ledRed = s.ledRed := rfl
@[simp] theorem State.raiseIllegal_ledGreen : (s.raiseIllegal w).ledGreen = s.ledGreen := rfl
@[simp] theorem State.raiseIllegal_pwmCmp : (s.raiseIllegal w).pwmCmp = s.pwmCmp := rfl
@[simp] theorem State.raiseIllegal_fault : (s.raiseIllegal w).fault = FaultCode.illegalWord := rfl
@[simp] theorem State.raiseIllegal_pressed : (s.raiseIllegal w).pressed = s.pressed := rfl
@[simp] theorem State.raiseIllegal_trace : (s.raiseIllegal w).trace = s.trace ++ [.fault FaultCode.illegalWord w.toNat] := rfl
@[simp] theorem State.raiseIllegal_stepLog : (s.raiseIllegal w).stepLog = s.stepLog := rfl
@[simp] theorem State.raiseIllegal_cfg : (s.raiseIllegal w).cfg = s.cfg := rfl
@[simp] theorem State.raiseIllegal_sched : (s.raiseIllegal w).sched = s.sched := rfl
@[simp] theorem State.raiseIllegal_choices : (s.raiseIllegal w).choices = s.choices := rfl
@[simp] theorem State.raiseIllegal_draws : (s.raiseIllegal w).draws = s.draws := rfl
@[simp] theorem State.raiseIllegal_bootDraw : (s.raiseIllegal w).bootDraw = s.bootDraw := rfl

end

/-! ### `s.bufStore i v` -/

section

variable (s : State) (i : Nat) (v : Byte)

@[simp] theorem State.bufStore_ls : (s.bufStore i v).ls = s.ls := rfl
@[simp] theorem State.bufStore_buf : (s.bufStore i v).buf = Memory.write s.buf i v := rfl
@[simp] theorem State.bufStore_len : (s.bufStore i v).len = s.len := rfl
@[simp] theorem State.bufStore_dc : (s.bufStore i v).dc = s.dc := rfl
@[simp] theorem State.bufStore_pend : (s.bufStore i v).pend = s.pend := rfl
@[simp] theorem State.bufStore_phase : (s.bufStore i v).phase = s.phase := rfl
@[simp] theorem State.bufStore_rowOut : (s.bufStore i v).rowOut = s.rowOut := rfl
@[simp] theorem State.bufStore_ledRed : (s.bufStore i v).ledRed = s.ledRed := rfl
@[simp] theorem State.bufStore_ledGreen : (s.bufStore i v).ledGreen = s.ledGreen := rfl
@[simp] theorem State.bufStore_pwmCmp : (s.bufStore i v).pwmCmp = s.pwmCmp := rfl
@[simp] theorem State.bufStore_fault : (s.bufStore i v).fault = s.fault := rfl
@[simp] theorem State.bufStore_pressed : (s.bufStore i v).pressed = s.pressed := rfl
@[simp] theorem State.bufStore_trace : (s.bufStore i v).trace = s.trace := rfl
@[simp] theorem State.bufStore_stepLog : (s.bufStore i v).stepLog = s.stepLog := rfl
@[simp] theorem State.bufStore_cfg : (s.bufStore i v).cfg = s.cfg := rfl
@[simp] theorem State.bufStore_sched : (s.bufStore i v).sched = s.sched := rfl
@[simp] theorem State.bufStore_choices : (s.bufStore i v).choices = s.choices := rfl
@[simp] theorem State.bufStore_draws : (s.bufStore i v).draws = s.draws := rfl
@[simp] theorem State.bufStore_bootDraw : (s.bufStore i v).bootDraw = s.bootDraw := rfl

end

/-! ### `s.driveRow r level` -/

section

variable (s : State) (r : Row) (level : Bool)

@[simp] theorem State.driveRow_ls : (s.driveRow r level).ls = s.ls := rfl
@[simp] theorem State.driveRow_buf : (s.driveRow r level).buf = s.buf := rfl
@[simp] theorem State.driveRow_len : (s.driveRow r level).len = s.len := rfl
@[simp] theorem State.driveRow_dc : (s.driveRow r level).dc = s.dc := rfl
@[simp] theorem State.driveRow_pend : (s.driveRow r level).pend = s.pend := rfl
@[simp] theorem State.driveRow_phase : (s.driveRow r level).phase = s.phase := rfl
@[simp] theorem State.driveRow_rowOut : (s.driveRow r level).rowOut = (if level then s.rowOut ||| rowMask r else s.rowOut &&& ~~~rowMask r) := rfl
@[simp] theorem State.driveRow_ledRed : (s.driveRow r level).ledRed = s.ledRed := rfl
@[simp] theorem State.driveRow_ledGreen : (s.driveRow r level).ledGreen = s.ledGreen := rfl
@[simp] theorem State.driveRow_pwmCmp : (s.driveRow r level).pwmCmp = s.pwmCmp := rfl
@[simp] theorem State.driveRow_fault : (s.driveRow r level).fault = s.fault := rfl
@[simp] theorem State.driveRow_pressed : (s.driveRow r level).pressed = s.pressed := rfl
@[simp] theorem State.driveRow_trace : (s.driveRow r level).trace = s.trace ++ [.row r level] := rfl
@[simp] theorem State.driveRow_stepLog : (s.driveRow r level).stepLog = s.stepLog := rfl
@[simp] theorem State.driveRow_cfg : (s.driveRow r level).cfg = s.cfg := rfl
@[simp] theorem State.driveRow_sched : (s.driveRow r level).sched = s.sched := rfl
@[simp] theorem State.driveRow_choices : (s.driveRow r level).choices = s.choices := rfl
@[simp] theorem State.driveRow_draws : (s.driveRow r level).draws = s.draws := rfl
@[simp] theorem State.driveRow_bootDraw : (s.driveRow r level).bootDraw = s.bootDraw := rfl

end

/-! ### `s.skipDraws n` -/

section

variable (s : State) (n : Nat)

@[simp] theorem State.skipDraws_ls : (s.skipDraws n).ls = s.ls := rfl
@[simp] theorem State.skipDraws_buf : (s.skipDraws n).buf = s.buf := rfl
@[simp] theorem State.skipDraws_len : (s.skipDraws n).len = s.len := rfl
@[simp] theorem State.skipDraws_dc : (s.skipDraws n).dc = s.dc := rfl
@[simp] theorem State.skipDraws_pend : (s.skipDraws n).pend = s.pend := rfl
@[simp] theorem State.skipDraws_phase : (s.skipDraws n).phase = s.phase := rfl
@[simp] theorem State.skipDraws_rowOut : (s.skipDraws n).rowOut = s.rowOut := rfl
@[simp] theorem State.skipDraws_ledRed : (s.skipDraws n).ledRed = s.ledRed := rfl
@[simp] theorem State.skipDraws_ledGreen : (s.skipDraws n).ledGreen = s.ledGreen := rfl
@[simp] theorem State.skipDraws_pwmCmp : (s.skipDraws n).pwmCmp = s.pwmCmp := rfl
@[simp] theorem State.skipDraws_fault : (s.skipDraws n).fault = s.fault := rfl
@[simp] theorem State.skipDraws_pressed : (s.skipDraws n).pressed = s.pressed := rfl
@[simp] theorem State.skipDraws_trace : (s.skipDraws n).trace = s.trace := rfl
@[simp] theorem State.skipDraws_stepLog : (s.skipDraws n).stepLog = s.stepLog := rfl
@[simp] theorem State.skipDraws_cfg : (s.skipDraws n).cfg = s.cfg := rfl
@[simp] theorem State.skipDraws_sched : (s.skipDraws n).sched = s.sched := rfl
@[simp] theorem State.skipDraws_choices : (s.skipDraws n).choices = s.choices.drop n := rfl
@[simp] theorem State.skipDraws_draws : (s.skipDraws n).draws = s.draws + (n - s.choices.length) := rfl
@[simp] theorem State.skipDraws_bootDraw : (s.skipDraws n).bootDraw = s.bootDraw := rfl

end

/-! ### `s.advanceSeq` -/

section

variable (s : State)

@[simp] theorem State.advanceSeq_ls : (s.advanceSeq).ls = s.ls := rfl
@[simp] theorem State.advanceSeq_buf : (s.advanceSeq).buf = s.buf := rfl
@[simp] theorem State.advanceSeq_len : (s.advanceSeq).len = s.len := rfl
@[simp] theorem State.advanceSeq_dc : (s.advanceSeq).dc = s.dc := rfl
@[simp] theorem State.advanceSeq_pend : (s.advanceSeq).pend = s.pend := rfl
@[simp] theorem State.advanceSeq_phase : (s.advanceSeq).phase = s.phase.advance := rfl
@[simp] theorem State.advanceSeq_rowOut : (s.advanceSeq).rowOut = s.rowOut := rfl
@[simp] theorem State.advanceSeq_ledRed : (s.advanceSeq).ledRed = s.ledRed := rfl
@[simp] theorem State.advanceSeq_ledGreen : (s.advanceSeq).ledGreen = s.ledGreen := rfl
@[simp] theorem State.advanceSeq_pwmCmp : (s.advanceSeq).pwmCmp = s.pwmCmp := rfl
@[simp] theorem State.advanceSeq_fault : (s.advanceSeq).fault = s.fault := rfl
@[simp] theorem State.advanceSeq_pressed : (s.advanceSeq).pressed = s.pressed := rfl
@[simp] theorem State.advanceSeq_trace : (s.advanceSeq).trace = s.trace := rfl
@[simp] theorem State.advanceSeq_stepLog : (s.advanceSeq).stepLog = s.stepLog := rfl
@[simp] theorem State.advanceSeq_cfg : (s.advanceSeq).cfg = s.cfg := rfl
@[simp] theorem State.advanceSeq_sched : (s.advanceSeq).sched = s.sched := rfl
@[simp] theorem State.advanceSeq_choices : (s.advanceSeq).choices = s.choices := rfl
@[simp] theorem State.advanceSeq_draws : (s.advanceSeq).draws = s.draws := rfl
@[simp] theorem State.advanceSeq_bootDraw : (s.advanceSeq).bootDraw = s.bootDraw := rfl

end

/-! ### `s.pressKey k` -/

section

variable (s : State) (k : Key)

@[simp] theorem State.pressKey_ls : (s.pressKey k).ls = s.ls := rfl
@[simp] theorem State.pressKey_buf : (s.pressKey k).buf = s.buf := rfl
@[simp] theorem State.pressKey_len : (s.pressKey k).len = s.len := rfl
@[simp] theorem State.pressKey_dc : (s.pressKey k).dc = s.dc := rfl
@[simp] theorem State.pressKey_pend : (s.pressKey k).pend = s.pend := rfl
@[simp] theorem State.pressKey_phase : (s.pressKey k).phase = s.phase := rfl
@[simp] theorem State.pressKey_rowOut : (s.pressKey k).rowOut = s.rowOut := rfl
@[simp] theorem State.pressKey_ledRed : (s.pressKey k).ledRed = s.ledRed := rfl
@[simp] theorem State.pressKey_ledGreen : (s.pressKey k).ledGreen = s.ledGreen := rfl
@[simp] theorem State.pressKey_pwmCmp : (s.pressKey k).pwmCmp = s.pwmCmp := rfl
@[simp] theorem State.pressKey_fault : (s.pressKey k).fault = s.fault := rfl
@[simp] theorem State.pressKey_pressed : (s.pressKey k).pressed = allKeys.filter (fun x => x == k || s.pressed.contains x) := rfl
@[simp] theorem State.pressKey_trace : (s.pressKey k).trace = s.trace := rfl
@[simp] theorem State.pressKey_stepLog : (s.pressKey k).stepLog = s.stepLog ++ [.press k] := rfl
@[simp] theorem State.pressKey_cfg : (s.pressKey k).cfg = s.cfg := rfl
@[simp] theorem State.pressKey_sched : (s.pressKey k).sched = s.sched := rfl
@[simp] theorem State.pressKey_choices : (s.pressKey k).choices = s.choices := rfl
@[simp] theorem State.pressKey_draws : (s.pressKey k).draws = s.draws := rfl
@[simp] theorem State.pressKey_bootDraw : (s.pressKey k).bootDraw = s.bootDraw := rfl

end

/-! ### `s.releaseKey k` -/

section

variable (s : State) (k : Key)

@[simp] theorem State.releaseKey_ls : (s.releaseKey k).ls = s.ls := rfl
@[simp] theorem State.releaseKey_buf : (s.releaseKey k).buf = s.buf := rfl
@[simp] theorem State.releaseKey_len : (s.releaseKey k).len = s.len := rfl
@[simp] theorem State.releaseKey_dc : (s.releaseKey k).dc = s.dc := rfl
@[simp] theorem State.releaseKey_pend : (s.releaseKey k).pend = s.pend := rfl
@[simp] theorem State.releaseKey_phase : (s.releaseKey k).phase = s.phase := rfl
@[simp] theorem State.releaseKey_rowOut : (s.releaseKey k).rowOut = s.rowOut := rfl
@[simp] theorem State.releaseKey_ledRed : (s.releaseKey k).ledRed = s.ledRed := rfl
@[simp] theorem State.releaseKey_ledGreen : (s.releaseKey k).ledGreen = s.ledGreen := rfl
@[simp] theorem State.releaseKey_pwmCmp : (s.releaseKey k).pwmCmp = s.pwmCmp := rfl
@[simp] theorem State.releaseKey_fault : (s.releaseKey k).fault = s.fault := rfl
@[simp] theorem State.releaseKey_pressed : (s.releaseKey k).pressed = allKeys.filter (fun x => x != k && s.pressed.contains x) := rfl
@[simp] theorem State.releaseKey_trace : (s.releaseKey k).trace = s.trace := rfl
@[simp] theorem State.releaseKey_stepLog : (s.releaseKey k).stepLog = s.stepLog ++ [.release k] := rfl
@[simp] theorem State.releaseKey_cfg : (s.releaseKey k).cfg = s.cfg := rfl
@[simp] theorem State.releaseKey_sched : (s.releaseKey k).sched = s.sched := rfl
@[simp] theorem State.releaseKey_choices : (s.releaseKey k).choices = s.choices := rfl
@[simp] theorem State.releaseKey_draws : (s.releaseKey k).draws = s.draws := rfl
@[simp] theorem State.releaseKey_bootDraw : (s.releaseKey k).bootDraw = s.bootDraw := rfl

end

/-! ### `s.setPend` -/

section

variable (s : State)

@[simp] theorem State.setPend_ls : (s.setPend).ls = s.ls := rfl
@[simp] theorem State.setPend_buf : (s.setPend).buf = s.buf := rfl
@[simp] theorem State.setPend_len : (s.setPend).len = s.len := rfl
@[simp] theorem State.setPend_dc : (s.setPend).dc = s.dc := rfl
@[simp] theorem State.setPend_pend : (s.setPend).pend = true := rfl
@[simp] theorem State.setPend_phase : (s.setPend).phase = s.phase := rfl
@[simp] theorem State.setPend_rowOut : (s.setPend).rowOut = s.rowOut := rfl
@[simp] theorem State.setPend_ledRed : (s.setPend).ledRed = s.ledRed := rfl
@[simp] theorem State.setPend_ledGreen : (s.setPend).ledGreen = s.ledGreen := rfl
@[simp] theorem State.setPend_pwmCmp : (s.setPend).pwmCmp = s.pwmCmp := rfl
@[simp] theorem State.setPend_fault : (s.setPend).fault = s.fault := rfl
@[simp] theorem State.setPend_pressed : (s.setPend).pressed = s.pressed := rfl
@[simp] theorem State.setPend_trace : (s.setPend).trace = s.trace := rfl
@[simp] theorem State.setPend_stepLog : (s.setPend).stepLog = s.stepLog := rfl
@[simp] theorem State.setPend_cfg : (s.setPend).cfg = s.cfg := rfl
@[simp] theorem State.setPend_sched : (s.setPend).sched = s.sched := rfl
@[simp] theorem State.setPend_choices : (s.setPend).choices = s.choices := rfl
@[simp] theorem State.setPend_draws : (s.setPend).draws = s.draws := rfl
@[simp] theorem State.setPend_bootDraw : (s.setPend).bootDraw = s.bootDraw := rfl

end

/-! ### `s.clearPend` -/

section

variable (s : State)

@[simp] theorem State.clearPend_ls : (s.clearPend).ls = s.ls := rfl
@[simp] theorem State.clearPend_buf : (s.clearPend).buf = s.buf := rfl
@[simp] theorem State.clearPend_len : (s.clearPend).len = s.len := rfl
@[simp] theorem State.clearPend_dc : (s.clearPend).dc = s.dc := rfl
@[simp] theorem State.clearPend_pend : (s.clearPend).pend = false := rfl
@[simp] theorem State.clearPend_phase : (s.clearPend).phase = s.phase := rfl
@[simp] theorem State.clearPend_rowOut : (s.clearPend).rowOut = s.rowOut := rfl
@[simp] theorem State.clearPend_ledRed : (s.clearPend).ledRed = s.ledRed := rfl
@[simp] theorem State.clearPend_ledGreen : (s.clearPend).ledGreen = s.ledGreen := rfl
@[simp] theorem State.clearPend_pwmCmp : (s.clearPend).pwmCmp = s.pwmCmp := rfl
@[simp] theorem State.clearPend_fault : (s.clearPend).fault = s.fault := rfl
@[simp] theorem State.clearPend_pressed : (s.clearPend).pressed = s.pressed := rfl
@[simp] theorem State.clearPend_trace : (s.clearPend).trace = s.trace := rfl
@[simp] theorem State.clearPend_stepLog : (s.clearPend).stepLog = s.stepLog := rfl
@[simp] theorem State.clearPend_cfg : (s.clearPend).cfg = s.cfg := rfl
@[simp] theorem State.clearPend_sched : (s.clearPend).sched = s.sched := rfl
@[simp] theorem State.clearPend_choices : (s.clearPend).choices = s.choices := rfl
@[simp] theorem State.clearPend_draws : (s.clearPend).draws = s.draws := rfl
@[simp] theorem State.clearPend_bootDraw : (s.clearPend).bootDraw = s.bootDraw := rfl

end

/-! ### `s.afterColIn` -/

section

variable (s : State)

@[simp] theorem State.afterColIn_ls : (s.afterColIn).ls = s.ls := rfl
@[simp] theorem State.afterColIn_buf : (s.afterColIn).buf = s.buf := rfl
@[simp] theorem State.afterColIn_len : (s.afterColIn).len = s.len := rfl
@[simp] theorem State.afterColIn_dc : (s.afterColIn).dc = s.dc := rfl
@[simp] theorem State.afterColIn_pend : (s.afterColIn).pend = s.pend := rfl
@[simp] theorem State.afterColIn_phase : (s.afterColIn).phase = s.phase := rfl
@[simp] theorem State.afterColIn_rowOut : (s.afterColIn).rowOut = s.rowOut := rfl
@[simp] theorem State.afterColIn_ledRed : (s.afterColIn).ledRed = s.ledRed := rfl
@[simp] theorem State.afterColIn_ledGreen : (s.afterColIn).ledGreen = s.ledGreen := rfl
@[simp] theorem State.afterColIn_pwmCmp : (s.afterColIn).pwmCmp = s.pwmCmp := rfl
@[simp] theorem State.afterColIn_fault : (s.afterColIn).fault = s.fault := rfl
@[simp] theorem State.afterColIn_pressed : (s.afterColIn).pressed = s.pressed := rfl
@[simp] theorem State.afterColIn_trace : (s.afterColIn).trace = s.trace := rfl
@[simp] theorem State.afterColIn_stepLog : (s.afterColIn).stepLog = s.stepLog := rfl
@[simp] theorem State.afterColIn_cfg : (s.afterColIn).cfg = s.cfg := rfl
@[simp] theorem State.afterColIn_sched : (s.afterColIn).sched = s.sched := rfl
@[simp] theorem State.afterColIn_choices : (s.afterColIn).choices = s.choices.drop (allCols.filter s.contended).length := rfl
@[simp] theorem State.afterColIn_draws : (s.afterColIn).draws = s.draws + ((allCols.filter s.contended).length - s.choices.length) := rfl
@[simp] theorem State.afterColIn_bootDraw : (s.afterColIn).bootDraw = s.bootDraw := rfl

end

/-! ### `s.startSeq expand` -/

section

variable (s : State) (expand : Bool → List SeqOp)

@[simp] theorem State.startSeq_ls : (s.startSeq expand).ls = s.ls := rfl
@[simp] theorem State.startSeq_buf : (s.startSeq expand).buf = s.buf := rfl
@[simp] theorem State.startSeq_len : (s.startSeq expand).len = s.len := rfl
@[simp] theorem State.startSeq_dc : (s.startSeq expand).dc = s.dc := rfl
@[simp] theorem State.startSeq_pend : (s.startSeq expand).pend = s.pend := rfl
@[simp] theorem State.startSeq_phase : (s.startSeq expand).phase = enqueue (expand (s.drawAt 0)) .dispatch := rfl
@[simp] theorem State.startSeq_rowOut : (s.startSeq expand).rowOut = s.rowOut := rfl
@[simp] theorem State.startSeq_ledRed : (s.startSeq expand).ledRed = s.ledRed := rfl
@[simp] theorem State.startSeq_ledGreen : (s.startSeq expand).ledGreen = s.ledGreen := rfl
@[simp] theorem State.startSeq_pwmCmp : (s.startSeq expand).pwmCmp = s.pwmCmp := rfl
@[simp] theorem State.startSeq_fault : (s.startSeq expand).fault = s.fault := rfl
@[simp] theorem State.startSeq_pressed : (s.startSeq expand).pressed = s.pressed := rfl
@[simp] theorem State.startSeq_trace : (s.startSeq expand).trace = s.trace := rfl
@[simp] theorem State.startSeq_stepLog : (s.startSeq expand).stepLog = s.stepLog := rfl
@[simp] theorem State.startSeq_cfg : (s.startSeq expand).cfg = s.cfg := rfl
@[simp] theorem State.startSeq_sched : (s.startSeq expand).sched = s.sched := rfl
@[simp] theorem State.startSeq_choices : (s.startSeq expand).choices = s.choices.drop 1 := rfl
@[simp] theorem State.startSeq_draws : (s.startSeq expand).draws = s.draws + (1 - s.choices.length) := rfl
@[simp] theorem State.startSeq_bootDraw : (s.startSeq expand).bootDraw = s.bootDraw := rfl

end

/-! ### `s.writePwm v` -/

section

variable (s : State) (v : BitVec 16)

@[simp] theorem State.writePwm_ls : (s.writePwm v).ls = s.ls := rfl
@[simp] theorem State.writePwm_buf : (s.writePwm v).buf = s.buf := rfl
@[simp] theorem State.writePwm_len : (s.writePwm v).len = s.len := rfl
@[simp] theorem State.writePwm_dc : (s.writePwm v).dc = s.dc := rfl
@[simp] theorem State.writePwm_pend : (s.writePwm v).pend = s.pend := rfl
@[simp] theorem State.writePwm_phase : (s.writePwm v).phase = s.phase := rfl
@[simp] theorem State.writePwm_rowOut : (s.writePwm v).rowOut = s.rowOut := rfl
@[simp] theorem State.writePwm_ledRed : (s.writePwm v).ledRed = s.ledRed := rfl
@[simp] theorem State.writePwm_ledGreen : (s.writePwm v).ledGreen = s.ledGreen := rfl
@[simp] theorem State.writePwm_pwmCmp : (s.writePwm v).pwmCmp = v := rfl
@[simp] theorem State.writePwm_fault : (s.writePwm v).fault = s.fault := rfl
@[simp] theorem State.writePwm_pressed : (s.writePwm v).pressed = s.pressed := rfl
@[simp] theorem State.writePwm_trace : (s.writePwm v).trace = s.trace ++ [.pwm v] := rfl
@[simp] theorem State.writePwm_stepLog : (s.writePwm v).stepLog = s.stepLog := rfl
@[simp] theorem State.writePwm_cfg : (s.writePwm v).cfg = s.cfg := rfl
@[simp] theorem State.writePwm_sched : (s.writePwm v).sched = s.sched := rfl
@[simp] theorem State.writePwm_choices : (s.writePwm v).choices = s.choices := rfl
@[simp] theorem State.writePwm_draws : (s.writePwm v).draws = s.draws := rfl
@[simp] theorem State.writePwm_bootDraw : (s.writePwm v).bootDraw = s.bootDraw := rfl

end

/-! ### `s.popTurn` -/

section

variable (s : State)

@[simp] theorem State.popTurn_ls : (s.popTurn).ls = s.ls := rfl
@[simp] theorem State.popTurn_buf : (s.popTurn).buf = s.buf := rfl
@[simp] theorem State.popTurn_len : (s.popTurn).len = s.len := rfl
@[simp] theorem State.popTurn_dc : (s.popTurn).dc = s.dc := rfl
@[simp] theorem State.popTurn_pend : (s.popTurn).pend = s.pend := rfl
@[simp] theorem State.popTurn_phase : (s.popTurn).phase = s.phase := rfl
@[simp] theorem State.popTurn_rowOut : (s.popTurn).rowOut = s.rowOut := rfl
@[simp] theorem State.popTurn_ledRed : (s.popTurn).ledRed = s.ledRed := rfl
@[simp] theorem State.popTurn_ledGreen : (s.popTurn).ledGreen = s.ledGreen := rfl
@[simp] theorem State.popTurn_pwmCmp : (s.popTurn).pwmCmp = s.pwmCmp := rfl
@[simp] theorem State.popTurn_fault : (s.popTurn).fault = s.fault := rfl
@[simp] theorem State.popTurn_pressed : (s.popTurn).pressed = s.pressed := rfl
@[simp] theorem State.popTurn_trace : (s.popTurn).trace = s.trace := rfl
@[simp] theorem State.popTurn_stepLog : (s.popTurn).stepLog = s.stepLog := rfl
@[simp] theorem State.popTurn_cfg : (s.popTurn).cfg = s.cfg := rfl
@[simp] theorem State.popTurn_sched : (s.popTurn).sched = s.sched.tail := rfl
@[simp] theorem State.popTurn_choices : (s.popTurn).choices = s.choices := rfl
@[simp] theorem State.popTurn_draws : (s.popTurn).draws = if s.sched.isEmpty then s.draws + 1 else s.draws := rfl
@[simp] theorem State.popTurn_bootDraw : (s.popTurn).bootDraw = s.bootDraw := rfl

end

/-! ### `s.writePin pin v` -/

section

variable (s : State) (pin : Pin) (v : Bool)

@[simp] theorem State.writePin_ls : (s.writePin pin v).ls = s.ls := by cases pin <;> rfl
@[simp] theorem State.writePin_buf : (s.writePin pin v).buf = s.buf := by cases pin <;> rfl
@[simp] theorem State.writePin_len : (s.writePin pin v).len = s.len := by cases pin <;> rfl
@[simp] theorem State.writePin_dc : (s.writePin pin v).dc = s.dc := by cases pin <;> rfl
@[simp] theorem State.writePin_pend : (s.writePin pin v).pend = s.pend := by cases pin <;> rfl
@[simp] theorem State.writePin_phase : (s.writePin pin v).phase = s.phase := by cases pin <;> rfl
@[simp] theorem State.writePin_rowOut : (s.writePin pin v).rowOut = s.rowOut := by cases pin <;> rfl
@[simp] theorem State.writePin_ledRed : (s.writePin pin v).ledRed = (if pin = .red then v else s.ledRed) := by cases pin <;> rfl
@[simp] theorem State.writePin_ledGreen : (s.writePin pin v).ledGreen = (if pin = .green then v else s.ledGreen) := by cases pin <;> rfl
@[simp] theorem State.writePin_pwmCmp : (s.writePin pin v).pwmCmp = s.pwmCmp := by cases pin <;> rfl
@[simp] theorem State.writePin_fault : (s.writePin pin v).fault = s.fault := by cases pin <;> rfl
@[simp] theorem State.writePin_pressed : (s.writePin pin v).pressed = s.pressed := by cases pin <;> rfl
@[simp] theorem State.writePin_trace : (s.writePin pin v).trace = s.trace ++ [match pin with | .red => .red v | .green => .green v] := by cases pin <;> rfl
@[simp] theorem State.writePin_stepLog : (s.writePin pin v).stepLog = s.stepLog := by cases pin <;> rfl
@[simp] theorem State.writePin_cfg : (s.writePin pin v).cfg = s.cfg := by cases pin <;> rfl
@[simp] theorem State.writePin_sched : (s.writePin pin v).sched = s.sched := by cases pin <;> rfl
@[simp] theorem State.writePin_choices : (s.writePin pin v).choices = s.choices := by cases pin <;> rfl
@[simp] theorem State.writePin_draws : (s.writePin pin v).draws = s.draws := by cases pin <;> rfl
@[simp] theorem State.writePin_bootDraw : (s.writePin pin v).bootDraw = s.bootDraw := by cases pin <;> rfl

end

/-! ### `s.tickWrite v` -/

section

variable (s : State) (v : BitVec 8)

@[simp] theorem State.tickWrite_ls : (s.tickWrite v).ls = s.ls := by unfold State.tickWrite; split <;> rfl
@[simp] theorem State.tickWrite_buf : (s.tickWrite v).buf = s.buf := by unfold State.tickWrite; split <;> rfl
@[simp] theorem State.tickWrite_len : (s.tickWrite v).len = s.len := by unfold State.tickWrite; split <;> rfl
@[simp] theorem State.tickWrite_pend : (s.tickWrite v).pend = s.pend := by unfold State.tickWrite; split <;> rfl
@[simp] theorem State.tickWrite_phase : (s.tickWrite v).phase = s.phase := by unfold State.tickWrite; split <;> rfl
@[simp] theorem State.tickWrite_rowOut : (s.tickWrite v).rowOut = s.rowOut := by unfold State.tickWrite; split <;> rfl
@[simp] theorem State.tickWrite_ledRed : (s.tickWrite v).ledRed = s.ledRed := by unfold State.tickWrite; split <;> rfl
@[simp] theorem State.tickWrite_ledGreen : (s.tickWrite v).ledGreen = s.ledGreen := by unfold State.tickWrite; split <;> rfl
@[simp] theorem State.tickWrite_pwmCmp : (s.tickWrite v).pwmCmp = s.pwmCmp := by unfold State.tickWrite; split <;> rfl
@[simp] theorem State.tickWrite_fault : (s.tickWrite v).fault = s.fault := by unfold State.tickWrite; split <;> rfl
@[simp] theorem State.tickWrite_pressed : (s.tickWrite v).pressed = s.pressed := by unfold State.tickWrite; split <;> rfl
@[simp] theorem State.tickWrite_trace : (s.tickWrite v).trace = s.trace := by unfold State.tickWrite; split <;> rfl
@[simp] theorem State.tickWrite_stepLog : (s.tickWrite v).stepLog = s.stepLog := by unfold State.tickWrite; split <;> rfl
@[simp] theorem State.tickWrite_cfg : (s.tickWrite v).cfg = s.cfg := by unfold State.tickWrite; split <;> rfl
@[simp] theorem State.tickWrite_sched : (s.tickWrite v).sched = s.sched := by unfold State.tickWrite; split <;> rfl
@[simp] theorem State.tickWrite_choices : (s.tickWrite v).choices = s.choices := by unfold State.tickWrite; split <;> rfl
@[simp] theorem State.tickWrite_draws : (s.tickWrite v).draws = s.draws := by unfold State.tickWrite; split <;> rfl
@[simp] theorem State.tickWrite_bootDraw : (s.tickWrite v).bootDraw = s.bootDraw := by unfold State.tickWrite; split <;> rfl

theorem State.tickWrite_dc : (s.tickWrite v).dc = if 0#8 < v then v - 1#8 else s.dc := by
  unfold State.tickWrite; split <;> rfl

end

/-! ### `s.edgeWrite v` -/

section

variable (s : State) (v : BitVec 8)

@[simp] theorem State.edgeWrite_ls : (s.edgeWrite v).ls = s.ls := by unfold State.edgeWrite; split <;> rfl
@[simp] theorem State.edgeWrite_buf : (s.edgeWrite v).buf = s.buf := by unfold State.edgeWrite; split <;> rfl
@[simp] theorem State.edgeWrite_len : (s.edgeWrite v).len = s.len := by unfold State.edgeWrite; split <;> rfl
@[simp] theorem State.edgeWrite_phase : (s.edgeWrite v).phase = s.phase := by unfold State.edgeWrite; split <;> rfl
@[simp] theorem State.edgeWrite_rowOut : (s.edgeWrite v).rowOut = s.rowOut := by unfold State.edgeWrite; split <;> rfl
@[simp] theorem State.edgeWrite_ledRed : (s.edgeWrite v).ledRed = s.ledRed := by unfold State.edgeWrite; split <;> rfl
@[simp] theorem State.edgeWrite_ledGreen : (s.edgeWrite v).ledGreen = s.ledGreen := by unfold State.edgeWrite; split <;> rfl
@[simp] theorem State.edgeWrite_pwmCmp : (s.edgeWrite v).pwmCmp = s.pwmCmp := by unfold State.edgeWrite; split <;> rfl
@[simp] theorem State.edgeWrite_fault : (s.edgeWrite v).fault = s.fault := by unfold State.edgeWrite; split <;> rfl
@[simp] theorem State.edgeWrite_pressed : (s.edgeWrite v).pressed = s.pressed := by unfold State.edgeWrite; split <;> rfl
@[simp] theorem State.edgeWrite_trace : (s.edgeWrite v).trace = s.trace := by unfold State.edgeWrite; split <;> rfl
@[simp] theorem State.edgeWrite_stepLog : (s.edgeWrite v).stepLog = s.stepLog := by unfold State.edgeWrite; split <;> rfl
@[simp] theorem State.edgeWrite_cfg : (s.edgeWrite v).cfg = s.cfg := by unfold State.edgeWrite; split <;> rfl
@[simp] theorem State.edgeWrite_sched : (s.edgeWrite v).sched = s.sched := by unfold State.edgeWrite; split <;> rfl
@[simp] theorem State.edgeWrite_choices : (s.edgeWrite v).choices = s.choices := by unfold State.edgeWrite; split <;> rfl
@[simp] theorem State.edgeWrite_draws : (s.edgeWrite v).draws = s.draws := by unfold State.edgeWrite; split <;> rfl
@[simp] theorem State.edgeWrite_bootDraw : (s.edgeWrite v).bootDraw = s.bootDraw := by unfold State.edgeWrite; split <;> rfl

theorem State.edgeWrite_dc : (s.edgeWrite v).dc = if v = 0#8 then s.cfg.guard else s.dc := by
  unfold State.edgeWrite; split <;> rfl

theorem State.edgeWrite_pend : (s.edgeWrite v).pend = if v = 0#8 then true else s.pend := by
  unfold State.edgeWrite; split <;> rfl

end

end Sys2Proof.Machine
end

