-- ==== Sys2Proof/Laws/Ops.lean ====
section
/-! SUPPORT. One lemma per shared operation, saying once what it can do: the buffer's reads and writes and their
canonical form, the draws, and the turns. -/

namespace Sys2Proof.Machine

/-! ### The code buffer -/

theorem Memory.lookup_write_same (m : List Host.Cell) (a : Nat) (v : Byte) :
    Memory.lookup (Memory.write m a v) a = some v := by
  induction m with
  | nil => simp [Memory.write, Memory.lookup]
  | cons c m ih =>
    obtain ⟨b, u⟩ := c
    simp only [Memory.write]
    split
    · simp [Memory.lookup]
    · split
      · simp [Memory.lookup]
      · simp_all [Memory.lookup]

theorem Memory.lookup_write_other (m : List Host.Cell) (a x : Nat) (v : Byte) (h : x ≠ a) :
    Memory.lookup (Memory.write m a v) x = Memory.lookup m x := by
  induction m with
  | nil => simp [Memory.write, Memory.lookup, h]
  | cons c m ih =>
    obtain ⟨b, u⟩ := c
    simp only [Memory.write]
    split
    · simp [Memory.lookup, h]
    · split
      · subst_vars; simp [Memory.lookup, h]
      · simp [Memory.lookup, ih]

theorem Memory.wfFrom_write (lo : Nat) (m : List Host.Cell) (a : Nat) (v : Byte) (hlo : lo ≤ a) (ha : a < 4)
    (h : Memory.wfFrom lo m = true) : Memory.wfFrom lo (Memory.write m a v) = true := by
  induction m generalizing lo with
  | nil => simp [Memory.write, Memory.wfFrom, hlo, ha]
  | cons c m ih =>
    obtain ⟨b, u⟩ := c
    simp only [Memory.wfFrom, Bool.and_eq_true, decide_eq_true_eq] at h
    obtain ⟨⟨hb, hb4⟩, hm⟩ := h
    simp only [Memory.write]
    split
    · rename_i hab
      simp [Memory.wfFrom, hlo, ha, hb4, hm]; omega
    · split
      · subst_vars; simp [Memory.wfFrom, hb, hb4, hm]
      · simp [Memory.wfFrom, hb, hb4]
        exact ih (b + 1) (by omega) hm

/-- `BufWrite` at an index below 4 keeps the canonical form. -/
theorem Memory.wf_write (m : List Host.Cell) (a : Nat) (v : Byte) (ha : a < 4) (h : Memory.wf m = true) :
    Memory.wf (Memory.write m a v) = true :=
  Memory.wfFrom_write 0 m a v (Nat.zero_le a) ha h

theorem State.bufRead_bufStore_same (s : State) (i : Nat) (v : Byte) : (s.bufStore i v).bufRead i = v := by
  simp [State.bufRead, Memory.lookup_write_same]

theorem State.bufRead_bufStore_other (s : State) (i a : Nat) (v : Byte) (h : a ≠ i) :
    (s.bufStore i v).bufRead a = s.bufRead a := by
  simp [State.bufRead, Memory.lookup_write_other, h]

/-- 20 R50: `BufWrite` writes below 4, and raises F_BUF_OVERFLOW from 4 on. -/
theorem State.bufWrite_cases (s : State) (i : Nat) (v : Byte) :
    (i < 4 ∧ s.bufWrite i v = .ok (s.bufStore i v)) ∨
      (4 ≤ i ∧ s.bufWrite i v = .error (s.raise FaultCode.bufOverflow i)) := by
  unfold State.bufWrite
  by_cases h : i < 4
  · simp [h]
  · simp [h]; omega

/-- The reset's memory is in canonical form. -/
theorem State.powerOn_canonical (cfg : CfgRegs) (sched : List Turn) (choices : List Bool) (n : Nat) :
    Memory.wf (State.powerOn cfg sched choices n).buf = true := rfl

/-! ### The set of closed keys -/

theorem mem_allKeys (k : Key) : k ∈ allKeys := by
  obtain ⟨r, c⟩ := k
  revert r c
  decide

/-- A filter of `allKeys` is in canonical form. -/
theorem filter_allKeys_canonical (p : Key → Bool) :
    (allKeys.filter p) = allKeys.filter (fun x => (allKeys.filter p).contains x) := by
  apply List.filter_congr
  intro x _
  simp [mem_allKeys]

theorem State.mem_pressKey (s : State) (k x : Key) : x ∈ (s.pressKey k).pressed ↔ x = k ∨ x ∈ s.pressed := by
  simp [mem_allKeys]

theorem State.mem_releaseKey (s : State) (k x : Key) :
    x ∈ (s.releaseKey k).pressed ↔ x ≠ k ∧ x ∈ s.pressed := by
  simp [mem_allKeys]

theorem State.pressKey_canonical (s : State) (k : Key) : (s.pressKey k).keysCanonical = true := by
  simp only [State.keysCanonical, State.pressKey_pressed, beq_iff_eq]
  exact filter_allKeys_canonical _

theorem State.releaseKey_canonical (s : State) (k : Key) : (s.releaseKey k).keysCanonical = true := by
  simp only [State.keysCanonical, State.releaseKey_pressed, beq_iff_eq]
  exact filter_allKeys_canonical _

/-! ### The row lines -/

theorem State.rowLevel_driveRow (s : State) (r q : Row) (level : Bool) :
    (s.driveRow r level).rowLevel q = if q = r then level else s.rowLevel q := by
  simp only [State.rowLevel, State.driveRow_rowOut, rowMask]
  generalize s.rowOut = w
  revert w q r level
  decide

/-! ### The draws -/

/-- 00 R9: the bits drawn after `n` draws are the next ones, so no draw is used twice. -/
theorem State.drawAt_skipDraws (s : State) (n k : Nat) : (s.skipDraws n).drawAt k = s.drawAt (n + k) := by
  simp only [State.drawAt, State.skipDraws, List.getElem?_drop, List.length_drop]
  congr 2
  omega

/-! ### The column sample -/

theorem State.colIn_all_high (s : State) : s.colIn = 0b111#3 ↔ ∀ c : Col, s.colLevel c = true := by
  simp only [State.colIn, Fin.forall_fin_succ, Fin.succ_zero_eq_one, Fin.succ_one_eq_two, IsEmpty.forall_iff, and_true]
  generalize s.colLevel 0 = a
  generalize s.colLevel 1 = b
  generalize s.colLevel 2 = c
  revert a b c
  decide

/-- 42 R128: `canReadAllHigh` says exactly that some draws make `ColIn()` 0b111. -/
theorem State.canReadAllHigh_iff (s : State) :
    s.canReadAllHigh = true ↔ ∃ drawn : List Bool, ({ s with choices := drawn } : State).colIn = 0b111#3 := by
  have hall : s.canReadAllHigh = true ↔ ∀ c : Col, s.contended c = true ∨ (s.closedRows c).all s.rowLevel = true := by
    simp [State.canReadAllHigh, allCols, Fin.forall_fin_succ]
  simp only [hall, State.colIn_all_high]
  constructor
  · intro h
    refine ⟨[true, true, true, true], fun c => ?_⟩
    show (if s.contended c then _ else (s.closedRows c).all s.rowLevel) = true
    split
    · have hb : s.contendedBelow c ≤ 3 := List.length_filter_le _ _
      show ([true, true, true, true][s.contendedBelow c]?).getD _ = true
      interval_cases s.contendedBelow c <;> rfl
    · rename_i hc
      exact (h c).resolve_left hc
  · rintro ⟨drawn, h⟩ c
    have hc : (if s.contended c then _ else (s.closedRows c).all s.rowLevel) = true := h c
    by_cases hd : s.contended c = true
    · exact .inl hd
    · rw [if_neg hd] at hc
      exact .inr hc

/-! ### The turns -/

/-- Every µop has a next state, in every state. -/
theorem exec_next (i : Instr) (s : State) : ∃ t, exec i s = .next t := by
  cases i <;> exact ⟨_, rfl⟩

/-- Every turn of an agent has a next state. -/
theorem perform_next (a : Action) (s : State) : ∃ t, perform a s = .next t := by
  cases a <;> first | exact exec_next _ _ | exact ⟨_, rfl⟩

/-- A finite run of agents' turns has a last state. -/
theorem performAll_next (as : List Action) (s : State) : ∃ t, performAll as s = .next t := by
  induction as generalizing s with
  | nil => exact ⟨s, rfl⟩
  | cons a as ih =>
    obtain ⟨t, ht⟩ := perform_next a s
    obtain ⟨u, hu⟩ := ih t
    exact ⟨u, by simp [performAll, ht, hu]⟩

end Sys2Proof.Machine
end

