-- ==== Sys2Proof/Laws/PerInstr.lean ====
section
/-! SUPPORT. The family EncodeFitsTable: a µop's word carries the match bits of its row of spec/opcode_table.json
under the row's mask (30_encoding.md R72). -/

namespace Sys2Proof.Laws.EncodeFitsTable

/-- The `match` and `mask` of the µop's row. -/
def row : Instr → Word × Word
  | .tick => (0x1000#16, 0xFFFF#16)
  | .edge => (0x2000#16, 0xFFFF#16)
  | .disp => (0x3000#16, 0xFFFF#16)
  | .rowdrv _ => (0x4000#16, 0xFFFC#16)
  | .rowrel _ => (0x5000#16, 0xFFFC#16)
  | .wait _ => (0x6000#16, 0xFFFE#16)
  | .sample _ => (0x7000#16, 0xFFFC#16)
  | .rwait _ => (0x8000#16, 0xFFFC#16)
  | .act _ => (0x9000#16, 0xFFFE#16)
  | .pinw _ _ => (0xA000#16, 0xFFFC#16)
  | .bufclr => (0xB000#16, 0xFFFF#16)
  | .bufapp _ => (0xC000#16, 0xFF00#16)
  | .cmp => (0xD000#16, 0xFFFF#16)
  | .setst _ => (0xE000#16, 0xFFFC#16)
  | .pclr => (0xF000#16, 0xFFFF#16)

/-- The word of `i` fits its row. -/
def Statement (i : Instr) : Prop := encode i &&& (row i).2 = (row i).1

theorem tick : Statement .tick := by unfold Statement; decide
theorem edge : Statement .edge := by unfold Statement; decide
theorem disp : Statement .disp := by unfold Statement; decide
theorem rowdrv (r : Row) : Statement (.rowdrv r) := by revert r; unfold Statement; decide
theorem rowrel (r : Row) : Statement (.rowrel r) := by revert r; unfold Statement; decide
theorem wait (kind : WaitKind) : Statement (.wait kind) := by unfold Statement; cases kind <;> decide
theorem sample (r : Row) : Statement (.sample r) := by revert r; unfold Statement; decide
theorem rwait (r : Row) : Statement (.rwait r) := by revert r; unfold Statement; decide
theorem act (locked : Bool) : Statement (.act locked) := by revert locked; unfold Statement; decide
theorem pinw (pin : Pin) (v : Bool) : Statement (.pinw pin v) := by
  unfold Statement; cases pin <;> cases v <;> decide
theorem bufclr : Statement .bufclr := by unfold Statement; decide
theorem bufapp (k : Byte) : Statement (.bufapp k) := by revert k; unfold Statement; decide
theorem cmp : Statement .cmp := by unfold Statement; decide
theorem setst (st : LockCode) : Statement (.setst st) := by revert st; unfold Statement; decide
theorem pclr : Statement .pclr := by unfold Statement; decide

end Sys2Proof.Laws.EncodeFitsTable
end

