-- ==== Sys2Proof/Laws/Step.lean ====
section
/-! SUPPORT. What a step can do, said once: the inversion of `step`, of DISP's and of BUFAPP's effect, what a column
sample draws, and the equations of the functions on phases that the invariants use. -/

namespace Sys2Proof.Machine

/-- 44 R174: BUFAPP's effect is a raised overflow, or the byte written, counted, and the next phase. -/
theorem State.append_cases (s : State) (k : Byte) :
    s.append k = s.raise FaultCode.bufOverflow s.len.toNat ∨
      (s.len.toNat < 4 ∧ s.append k = { s.bufStore s.len.toNat k with
        len := s.len + 1#3
        phase := if s.len.toNat + 1 < 4 then enqueue flash .dispatch else .compare }) := by
  unfold State.append State.bufWrite
  by_cases h : s.len.toNat < 4 <;> simp [h]

/-- 44 R170: DISP's effect is a raised bad state, one of the two button transitions, or a phase. -/
theorem State.dispatch_cases (s : State) :
    s.dispatch = s.raise FaultCode.badState s.ls.toNat ∨ s.dispatch = s.startSeq seqLB ∨
      s.dispatch = s.startSeq seqUB ∨ ∃ p, s.dispatch = { s with phase := p } := by
  unfold State.dispatch
  split <;> (try split) <;> simp

/-! ### What a column sample draws -/

theorem State.mem_closedRows (s : State) (c : Col) (r : Row) : r ∈ s.closedRows c ↔ (r, c) ∈ s.pressed := by
  have hr : r ∈ allRows := by revert r; decide
  simp [State.closedRows, hr]

/-- Among the closed keys of a column with r's, two or more are r's and another's. -/
theorem State.two_le_closedRows (s : State) (c : Col) (r : Row) (h : r ∈ s.closedRows c) :
    2 ≤ (s.closedRows c).length ↔ ∃ q, r ≠ q ∧ q ∈ s.closedRows c := by
  have hn : (s.closedRows c).Nodup := List.Nodup.filter _ (by decide)
  match hl : s.closedRows c, hn, h with
  | [a], _, h =>
    have hra : r = a := by simpa using h
    simp [hra]
  | a :: b :: l, hn, _ =>
    have hab : a ≠ b := fun hab => by simp [hab] at hn
    by_cases hra : r = a
    · exact ⟨fun _ => ⟨b, hra ▸ hab, by simp⟩, fun _ => by simp⟩
    · exact ⟨fun _ => ⟨a, hra, by simp⟩, fun _ => by simp⟩

/-- 42 R122: the machine's test for contention says what the rule says. -/
theorem State.contended_iff (s : State) (c : Col) : s.contended c = true ↔ ColumnContended s c := by
  simp only [State.contended, Bool.and_eq_true, List.any_eq_true, decide_eq_true_eq, Bool.not_eq_true',
    State.rowLevel]
  constructor
  · rintro ⟨⟨r, hr, hlow⟩, h2⟩
    obtain ⟨q, hq, hm⟩ := (s.two_le_closedRows c r hr).1 h2
    exact ⟨r, q, hq, (s.mem_closedRows c r).1 hr, (s.mem_closedRows c q).1 hm, hlow⟩
  · rintro ⟨r, q, hq, hr, hm, hlow⟩
    have hr' := (s.mem_closedRows c r).2 hr
    exact ⟨⟨r, hr', hlow⟩, (s.two_le_closedRows c r hr').2 ⟨q, hq, (s.mem_closedRows c q).2 hm⟩⟩

/-- 42 R122: after `ColIn()` one drawn bit is gone for each contended column. -/
theorem State.afterColIn_eq (s : State) : s.afterColIn = s.skipDraws (bitsSampled s) := by
  have hc : s.contended = fun c => decide (ColumnContended s c) :=
    funext fun c => Bool.eq_iff_iff.2 (by rw [s.contended_iff, decide_eq_true_iff])
  rw [State.afterColIn, hc, ← List.countP_eq_length_filter]
  rfl

/-- A step that answers a next state ran the µop the phase names, or a handler, or raised F_ILLEGAL_WORD for the word
it was handed, or was ENV's. -/
theorem step_cases {s t : State} (h : step s = .next t) :
    (∃ i, (i = s.phase.instr ∨ i.isHandler = true) ∧ s.nextTurn ≠ .agent .reset ∧ exec i s.popTurn = .next t) ∨
    (∃ w e, s.nextTurn = .handed w ∧ decode w = .error e ∧ t = s.popTurn.raiseIllegal w) ∨
    (∃ k, s.nextTurn = .agent (.press k) ∧ t = s.popTurn.pressKey k) ∨
    (∃ k, s.nextTurn = .agent (.release k) ∧ t = s.popTurn.releaseKey k) ∨
    (s.nextTurn = .agent .reset ∧ t = s.popTurn.powerCycle) := by
  unfold step at h
  generalize hn : s.nextTurn = n at *
  cases n with
  | agent a =>
    cases a <;> simp only [takeTurn, perform, Host.Outcome.next.injEq] at h
    · exact .inl ⟨_, .inl rfl, by simp, h⟩
    · exact .inl ⟨_, .inr rfl, by simp, h⟩
    · exact .inl ⟨_, .inr rfl, by simp, h⟩
    · exact .inr (.inr (.inl ⟨_, rfl, h.symm⟩))
    · exact .inr (.inr (.inr (.inl ⟨_, rfl, h.symm⟩)))
    · exact .inr (.inr (.inr (.inr ⟨rfl, h.symm⟩)))
  | handed w =>
    simp only [takeTurn, runWord] at h
    split at h
    · rename_i e hd
      cases h
      exact .inr (.inl ⟨w, e, rfl, hd, rfl⟩)
    · rename_i i hd
      split at h
      · rename_i hc
        simp only [Bool.or_eq_true, beq_iff_eq] at hc
        exact .inl ⟨i, hc.symm.imp Eq.symm id, by simp, h⟩
      · cases h

/-! ### Phases -/

section

variable (r : Row) (k : Byte) (u : SeqOp) (q : List SeqOp) (nxt : SeqNext)

@[simp] theorem Phase.rowOut_dispatch : Phase.dispatch.rowOut = 0b1111#4 := rfl
@[simp] theorem Phase.rowOut_scanDrive : (Phase.scanDrive r).rowOut = 0b1111#4 := rfl
@[simp] theorem Phase.rowOut_scanSettle : (Phase.scanSettle r).rowOut = ~~~rowMask r := rfl
@[simp] theorem Phase.rowOut_scanSample : (Phase.scanSample r).rowOut = ~~~rowMask r := rfl
@[simp] theorem Phase.rowOut_scanNext : (Phase.scanNext r).rowOut = ~~~rowMask r := rfl
@[simp] theorem Phase.rowOut_scanRwait : (Phase.scanRwait r k).rowOut = ~~~rowMask r := rfl
@[simp] theorem Phase.rowOut_scanRet : (Phase.scanRet r k).rowOut = ~~~rowMask r := rfl
@[simp] theorem Phase.rowOut_key : (Phase.key k).rowOut = 0b1111#4 := rfl
@[simp] theorem Phase.rowOut_compare : Phase.compare.rowOut = 0b1111#4 := rfl
@[simp] theorem Phase.rowOut_seq : (Phase.seq u q nxt).rowOut = 0b1111#4 := rfl

@[simp] theorem Phase.rowOut_enqueue : (enqueue q nxt).rowOut = 0b1111#4 := by
  cases q <;> cases nxt <;> rfl

@[simp] theorem Phase.advance_seq : (Phase.seq u q nxt).advance = enqueue q nxt := rfl

end

/-- 42 R125, R129: with all rows high, driving row r leaves only it low; releasing it leaves all high again. -/
theorem rowMask_drive_release (r : Row) :
    0b1111#4 &&& ~~~rowMask r = ~~~rowMask r ∧ ~~~rowMask r ||| rowMask r = 0b1111#4 := by
  revert r
  decide

end Sys2Proof.Machine
end

