-- ==== Sys2Proof/Laws/Timed.lean ====
section
/-! SUPPORT. What the definitions of the timed refinement say of each turn, and what a timed run gives of its handlers. -/

namespace Sys2Proof.Machine

section

variable (s : State) (since busy t : Time) (k : Key)

@[simp] theorem nextSince_main : nextSince .main since t = t := rfl
@[simp] theorem nextSince_tick : nextSince .tick since t = since := rfl
@[simp] theorem nextSince_edge : nextSince .edge since t = since := rfl
@[simp] theorem nextSince_press : nextSince (.press k) since t = since := rfl
@[simp] theorem nextSince_release : nextSince (.release k) since t = since := rfl

@[simp] theorem nextBusy_tick : nextBusy s .tick busy t = t := rfl
@[simp] theorem nextBusy_edge : nextBusy s .edge busy t = t := rfl
@[simp] theorem nextBusy_press : nextBusy s (.press k) busy t = busy := rfl
@[simp] theorem nextBusy_release : nextBusy s (.release k) busy t = busy := rfl

variable {s since busy t}

theorem nextBusy_wait {d : Time} (h : s.waitTime = some d) : nextBusy s .main busy t = busy := by
  simp [nextBusy, h]

theorem nextBusy_main (h : s.waitTime = none) : nextBusy s .main busy t = t := by
  simp [nextBusy, h]

/-- 70 R247: a WAIT ends exactly its fixed time after MAIN's latest step. -/
theorem turnInTime_wait {d : Time} (h : s.waitTime = some d) :
    turnInTime s .main since busy t ↔ t = since + d := by
  simp [turnInTime, h]

/-- 70 R247: another µop of MAIN takes a positive time. -/
theorem turnInTime_main (h : s.waitTime = none) :
    turnInTime s .main since busy t ↔ since < t ∧ busy < t := by
  simp [turnInTime, h]

end

/-- 70 R247: MAIN enters a WAIT by its ROWDRV. -/
theorem waitTime_scanSettle (s : State) (r : Row) (h : s.phase = .scanSettle r) : s.waitTime = some s.cfg.settleMs := by
  simp [State.waitTime, h]

/-- 70 R247: MAIN enters a WAIT by the flash's PINW GREEN, 1. -/
theorem waitTime_flash (s : State) (q : List SeqOp) (nxt : SeqNext) (h : s.phase = .seq .waitFlash q nxt) :
    s.waitTime = some s.cfg.flashMs := by
  simp [State.waitTime, h]

/-- In a timed run every handler ends strictly after the handlers and the µops other than WAIT before it. -/
theorem TurnsInTime.busy_lt {l : List (Time × Action)} {s : State} {since busy finish : Time}
    (h : TurnsInTime l s since busy finish) (hl : l.Pairwise (fun x y => x.1 ≤ y.1)) :
    ∀ x ∈ l, x.2 = .tick ∨ x.2 = .edge → busy < x.1 := by
  induction l generalizing s since busy with
  | nil => simp
  | cons y l ih =>
    obtain ⟨t, a⟩ := y
    obtain ⟨ht, u, -, hu⟩ := h
    rw [List.pairwise_cons] at hl
    intro x hx hxa
    rcases List.mem_cons.1 hx with rfl | hx
    · rcases hxa with rfl | rfl <;> exact ht
    · have hx' := ih hu hl.2 x hx hxa
      cases a with
      | main =>
        cases hw : s.waitTime with
        | none => rw [nextBusy_main hw] at hx'; exact ((turnInTime_main hw).1 ht).2.trans hx'
        | some d => rwa [nextBusy_wait hw] at hx'
      | tick => exact lt_trans ht hx'
      | edge => exact lt_trans ht hx'
      | _ => exact hx'

/-- In a timed run the handlers end at strictly rising times. -/
theorem TurnsInTime.handlers_rise {l : List (Time × Action)} {s : State} {since busy finish : Time}
    (h : TurnsInTime l s since busy finish) (hl : l.Pairwise (fun x y => x.1 ≤ y.1)) :
    l.Pairwise (fun x y => x.2 = .tick ∨ x.2 = .edge → y.2 = .tick ∨ y.2 = .edge → x.1 < y.1) := by
  induction l generalizing s since busy with
  | nil => exact List.Pairwise.nil
  | cons y l ih =>
    obtain ⟨t, a⟩ := y
    obtain ⟨-, u, -, hu⟩ := h
    rw [List.pairwise_cons] at hl ⊢
    refine ⟨fun x hx ha hxa => ?_, ih hu hl.2⟩
    have hlt := hu.busy_lt hl.2 x hx hxa
    rcases ha with rfl | rfl <;> exact hlt

end Sys2Proof.Machine
end

