-- ==== Sys2Proof/Tests/Slice0.lean ====
section
/-! SUPPORT. Tests against the words of spec/30_encoding.md and the vectors of spec/95_test_vectors.md, and for every
obligation with hypotheses a state and operands that meet them. -/

namespace Sys2Proof.Tests

open Sys2Proof.Machine

/-! ### Helpers -/

/-- The default configuration, with numbers in place of the OPEN parameters. -/
def cfg0 : CfgRegs :=
  { Config.default with dutyLocked := 0x1111#16, dutyUnlocked := 0x2222#16, flashMs := 100 }

/-- A state with no free value in it, in EnteringCode with an empty buffer and all keys open. -/
def st0 : State where
  ls := 1#2
  buf := []
  len := 0#3
  dc := 0#8
  pend := false
  phase := .dispatch
  rowOut := 0b1111#4
  ledRed := false
  ledGreen := false
  pwmCmp := 0#16
  fault := 0#2
  pressed := []
  trace := []
  stepLog := []
  cfg := cfg0
  sched := []
  choices := [true, false]
  draws := 0
  bootDraw := 0

/-- `st0` at the control point `p`. -/
def inPhase (p : Phase) : State := { st0 with phase := p }

/-- `st0` with a full buffer, at COMPARE. -/
def full (code : List Byte) : State :=
  { st0 with phase := .compare, len := 4#3, buf := [0, 1, 2, 3].zip code }

/-- The next state of an outcome. -/
def after : Host.Outcome State Fault Refusal → Option State
  | .next t => some t
  | _ => none

/-! ### WellFormed (30 R75) -/

theorem test_setst_3_is_ill_formed : (Instr.setst 3#2).wellFormed = false := by decide
theorem test_bufapp_nokey_is_ill_formed : (Instr.bufapp 0#8).wellFormed = false := by decide
theorem test_setst_2_is_well_formed : (Instr.setst 2#2).wellFormed = true := by decide
theorem test_bufapp_1_is_well_formed : (Instr.bufapp 1#8).wellFormed = true := by decide

/-! ### Words written out from 30 R71, R72 -/

/-- What a word decodes to. -/
def reads (w : Word) : Option Instr :=
  match decode w with
  | .ok i => some i
  | .error _ => none

theorem test_decode_tick : reads 0b0001000000000000#16 = some .tick := by decide
theorem test_decode_edge : reads 0b0010000000000000#16 = some .edge := by decide
theorem test_decode_disp : reads 0b0011000000000000#16 = some .disp := by decide
theorem test_decode_rowdrv : reads 0b0100000000000011#16 = some (.rowdrv 3) := by decide
theorem test_decode_rowrel : reads 0b0101000000000010#16 = some (.rowrel 2) := by decide
theorem test_decode_wait_settle : reads 0b0110000000000000#16 = some (.wait .settle) := by decide
theorem test_decode_wait_flash : reads 0b0110000000000001#16 = some (.wait .flash) := by decide
theorem test_decode_sample : reads 0b0111000000000001#16 = some (.sample 1) := by decide
theorem test_decode_rwait : reads 0b1000000000000010#16 = some (.rwait 2) := by decide
theorem test_decode_act_locked : reads 0b1001000000000001#16 = some (.act true) := by decide
theorem test_decode_act_unlocked : reads 0b1001000000000000#16 = some (.act false) := by decide
theorem test_decode_pinw_red : reads 0b1010000000000001#16 = some (.pinw .red true) := by decide
theorem test_decode_pinw_green : reads 0b1010000000000010#16 = some (.pinw .green false) := by decide
theorem test_decode_bufclr : reads 0b1011000000000000#16 = some .bufclr := by decide
theorem test_decode_bufapp : reads 0b1100000000100011#16 = some (.bufapp 0x23#8) := by decide
theorem test_decode_cmp : reads 0b1101000000000000#16 = some .cmp := by decide
theorem test_decode_setst : reads 0b1110000000000001#16 = some (.setst 1#2) := by decide
theorem test_decode_pclr : reads 0b1111000000000000#16 = some .pclr := by decide

/-- V70, V71, V73 to V75, V77, V78, V80 to V82: the illegal words. -/
theorem test_illegal_words :
    [0x0000#16, 0x1001#16, 0x4004#16, 0x6002#16, 0x9002#16, 0xA004#16, 0xC000#16, 0xC12A#16, 0xE003#16,
      0xFFFF#16].all (fun w => reads w == none) = true := by decide

/-- The table's numbering of bits: one word, bit 0 the least significant. -/
theorem test_decode_table_word : decodeTableWord 16 0xA003 = some (.pinw .green true) := by decide

/-- A word placed for the next step is what the next step runs. -/
theorem test_fetch_word : after (step (State.reset.withFetchWord 16 0x4002)) =
    after (exec (.rowdrv 2) { State.reset with phase := .scanDrive 2 }) := by rfl

/-- 30 R81. -/
theorem test_asm_text : asmText (.pinw .red true) = "PINW RED, 1" ∧ asmText (.setst 1#2) = "SETST ENTERING" := by
  decide

/-! ### One step each, from 95_test_vectors.md -/

/-- V1, V3. -/
theorem test_tick : (after (exec .tick { st0 with dc := 2#8 })).map (·.dc) = some 1#8 ∧
    (after (exec .tick st0)).map (·.dc) = some 0#8 := by decide

/-- V4. -/
theorem test_tick_255 : (after (exec .tick { st0 with dc := 255#8 })).map (·.dc) = some 254#8 := by decide

/-- V10. -/
theorem test_edge_accepted :
    (after (exec .edge st0)).map (fun t => (t.dc, t.pend)) = some (2#8, true) := by decide

/-- V12. -/
theorem test_edge_ignored :
    (after (exec .edge { st0 with dc := 1#8 })).map (fun t => (t.dc, t.pend)) = some (1#8, false) := by decide

/-- V31, red first. -/
theorem test_disp_button : (after (exec .disp { st0 with ls := 0#2, pend := true })).map (·.phase) =
    some (.seq .bufclr [.pinw .red false, .pinw .green false, .setst 1#2, .pclr] .dispatch) := by decide

/-- V36. -/
theorem test_disp_bad_state : (after (exec .disp { st0 with ls := 3#2 })).map (fun t => (t.fault, t.trace)) =
    some (3#2, [.fault 3#2 3]) := by decide

/-- V40s. -/
theorem test_rowdrv : (after (exec (.rowdrv 2) (inPhase (.scanDrive 2)))).map
    (fun t => (t.rowOut, t.phase, t.trace)) = some (0b1011#4, .scanSettle 2, [.row 2 false]) := by decide

/-- V41s. -/
theorem test_wait_settle : after (exec (.wait .settle) (inPhase (.scanSettle 3))) =
    some { inPhase (.scanSample 3) with stepLog := [.word 0x6000#16] } := by decide

/-- V67, its second µop. -/
theorem test_wait_flash :
    (after (exec (.wait .flash) (inPhase (.seq .waitFlash [.pinw .green false] .dispatch)))).map (·.phase) =
      some (.seq (.pinw .green false) [] .dispatch) := by decide

/-- V42s: the first column wins. -/
theorem test_sample_first_column : (after (exec (.sample 1)
    { inPhase (.scanSample 1) with rowOut := 0b1101#4, pressed := [(1, 0), (1, 2)] })).map (·.phase) =
      some (.scanRwait 1 0x34#8) := by decide

/-- V43s. -/
theorem test_sample_other_row : (after (exec (.sample 0)
    { inPhase (.scanSample 0) with rowOut := 0b1110#4, pressed := [(1, 1)] })).map (·.phase) =
      some (.scanNext 0) := by decide

/-- V30c to V33c, V35c, V36c. -/
theorem test_col_in :
    (State.colIn { st0 with rowOut := 0b1101#4, pressed := [(1, 1)] } = 0b101#3) ∧
    (State.colIn { st0 with rowOut := 0b1110#4, pressed := [(1, 1)] } = 0b111#3) ∧
    (State.colIn { st0 with rowOut := 0b1101#4, pressed := [(1, 0), (1, 2)] } = 0b010#3) ∧
    (State.colIn { st0 with pressed := [(0, 1), (2, 1)] } = 0b111#3) ∧
    (State.colIn { st0 with rowOut := 0b1110#4, pressed := [(0, 0), (1, 1)] } = 0b110#3) := by decide

/-- V34c: contention in column 1, both values. -/
theorem test_col_in_contended :
    let s := { st0 with rowOut := 0b1110#4, pressed := [(0, 1), (2, 1)] }
    State.colIn { s with choices := [false] } = 0b101#3 ∧ State.colIn { s with choices := [true] } = 0b111#3 := by
  decide

/-- 42 R122: columns 0 and 2 contended are two draws, and the bit after them is left for the next one. -/
theorem test_col_in_two_draws :
    let s := { inPhase (.scanSample 0) with rowOut := 0b1110#4, pressed := [(0, 0), (0, 2), (1, 0), (1, 2)] }
    State.colIn { s with choices := [false, true] } = 0b110#3 ∧
      State.colIn { s with choices := [true, false] } = 0b011#3 ∧
      (after (exec (.sample 0) { s with choices := [true, false, true] })).map (·.choices) = some [true] := by decide

/-- V45s: held. -/
theorem test_rwait_held :
    let s := { inPhase (.scanRwait 1 0x34#8) with rowOut := 0b1101#4, pressed := [(1, 0)] }
    after (exec (.rwait 1) s) = some s := by decide

/-- V46s. -/
theorem test_rwait_passes : (after (exec (.rwait 1)
    { inPhase (.scanRwait 1 0x34#8) with rowOut := 0b1101#4, pressed := [(2, 0)] })).map (·.phase) =
      some (.scanRet 1 0x34#8) := by decide

/-- V48s. -/
theorem test_rowrel_returns : (after (exec (.rowrel 1)
    { inPhase (.scanRet 1 0x34#8) with rowOut := 0b1101#4 })).map (fun t => (t.rowOut, t.phase)) =
      some (0b1111#4, .key 0x34#8) := by decide

/-- V50s. -/
theorem test_rowrel_last_row : (after (exec (.rowrel 3)
    { inPhase (.scanNext 3) with rowOut := 0b0111#4 })).map (fun t => (t.rowOut, t.phase)) =
      some (0b1111#4, .dispatch) := by decide

/-- V60. -/
theorem test_act : (after (exec (.act true) (inPhase (.seq (.act true) [.pclr] .dispatch)))).map
    (fun t => (t.pwmCmp, t.trace, t.phase)) = some (0x1111#16, [.pwm 0x1111#16], .seq .pclr [] .dispatch) := by
  decide

/-- V63. -/
theorem test_pinw_red : (after (exec (.pinw .red true) { inPhase (.seq (.pinw .red true) [] .dispatch) with
    ledGreen := true })).map (fun t => (t.ledRed, t.ledGreen, t.phase)) = some (true, true, .dispatch) := by decide

/-- V64. -/
theorem test_pinw_green : (after (exec (.pinw .green false) { inPhase (.seq (.pinw .green false) [] .dispatch) with
    ledGreen := true })).map (·.ledGreen) = some false := by decide

/-- V37. -/
theorem test_bufclr : (after (exec .bufclr { full [0x35#8, 0x34#8, 0x39#8, 0x33#8] with
    len := 3#3, phase := .seq .bufclr [] .dispatch })).map (fun t => (t.len, t.bufRead 0, t.phase)) =
      some (0#3, 0x35#8, .dispatch) := by decide

/-- V39. -/
theorem test_bufapp_fourth : (after (exec (.bufapp 0x33#8) { inPhase (.key 0x33#8) with len := 3#3 })).map
    (fun t => (t.bufRead 3, t.len, t.phase)) = some (0x33#8, 4#3, .compare) := by decide

/-- V39b. -/
theorem test_bufapp_overflow : (after (exec (.bufapp 0x31#8) { inPhase (.key 0x31#8) with len := 4#3 })).map
    (fun t => (t.fault, t.trace, t.buf, t.len)) = some (2#2, [.fault 2#2 4], [], 4#3) := by decide

/-- V40. -/
theorem test_cmp_equal : (after (exec .cmp (full [0x35#8, 0x34#8, 0x39#8, 0x33#8]))).map (·.phase) =
    some (.seq (.act false) [.pinw .red false, .pinw .green true, .bufclr, .setst 2#2] .dispatch) := by decide

/-- V41. -/
theorem test_cmp_swapped : (after (exec .cmp (full [0x34#8, 0x35#8, 0x39#8, 0x33#8]))).map (·.phase) =
    some (.seq (.act true) [.pinw .red true, .pinw .green false, .bufclr, .setst 0#2] .dispatch) := by decide

/-- V47. -/
theorem test_setst : (after (exec (.setst 2#2) (inPhase (.seq (.setst 2#2) [] .dispatch)))).map (·.ls) =
    some 2#2 := by decide

/-- V48. -/
theorem test_pclr : (after (exec .pclr { inPhase (.seq .pclr [] .dispatch) with pend := true, dc := 2#8 })).map
    (fun t => (t.pend, t.dc)) = some (false, 2#8) := by decide

/-- V35: under discard an event in EnteringCode is cleared, and the scan starts. -/
theorem test_discard : (after (performAll [.main, .main]
    { st0 with pend := true, cfg := { cfg0 with btn := .discard } })).map (fun t => (t.pend, t.phase)) =
      some (false, .scanDrive 0) := by decide

/-- V70: an illegal word handed as a step. -/
theorem test_handed_illegal_word : (after (step { st0 with sched := [.handed 0x0000#16] })).map
    (fun t => (t.fault, t.trace)) = some (1#2, [.fault 1#2 0]) := by decide

/-! ### What the hypotheses of the obligations are met by -/

/-- DecodeOfEncodeIsTheMicroOp, EncodeOfDecodeIsTheWord: at the ends of the operand ranges. -/
theorem test_hyp_encoding : (Instr.bufapp 0xFF#8).wellFormed = true ∧ (Instr.setst 0#2).wellFormed = true ∧
    decode 0xC0FF#16 = .ok (.bufapp 0xFF#8) ∧ decode 0xC001#16 = .ok (.bufapp 1#8) ∧
    decode 0xE002#16 = .ok (.setst 2#2) := by decide

/-- StepRunsTheDecodedMicroOp, its clauses with hypotheses (the first in its two cases). -/
theorem test_hyp_step_runs :
    (∃ s : State, s.sched = [.handed 0x1000#16] ∧ decode 0x1000#16 = .ok .tick ∧ Instr.tick.isHandler = true) ∧
    (∃ s : State, s.sched = [.handed 0x4003#16] ∧ decode 0x4003#16 = .ok (.rowdrv 3) ∧
      s.phase.instr = .rowdrv 3) ∧
    (∀ a, ∃ s : State, s.sched = [.agent a]) ∧ st0.sched = [] :=
  ⟨⟨{ st0 with sched := [.handed 0x1000#16] }, rfl, rfl, rfl⟩,
    ⟨{ inPhase (.scanDrive 3) with sched := [.handed 0x4003#16] }, rfl, rfl, rfl⟩,
    fun a => ⟨{ st0 with sched := [.agent a] }, rfl⟩, rfl⟩

/-- Every obligation whose hypotheses fix the phase only: PhaseNamesItsMicroOp (a finished SEQ with both values of `nxt`),
RowdrvDrivesItsRowLow, WaitChangesThePhaseOnly, ActWritesTheDutyConstant, PinwWritesOneIndicator, BufclrClearsTheCount,
PclrConsumesTheEvent. -/
theorem test_hyp_phases :
    (inPhase (.scanDrive 3)).phase = .scanDrive 3 ∧ (inPhase (.scanSettle 0)).phase = .scanSettle 0 ∧
    (inPhase (.scanSample 3)).phase = .scanSample 3 ∧ (inPhase (.scanRwait 0 0x31#8)).phase = .scanRwait 0 0x31#8 ∧
    (inPhase (.scanRet 3 0x23#8)).phase = .scanRet 3 0x23#8 ∧ (inPhase (.scanNext 0)).phase = .scanNext 0 ∧
    (inPhase (.key 0x31#8)).phase = .key 0x31#8 ∧ (inPhase .compare).phase = .compare ∧
    (inPhase (.seq (.act false) [] .scan)).phase = .seq (.act false) [] .scan ∧
    (inPhase (.seq (.pinw .red true) [.pclr] .dispatch)).phase = .seq (.pinw .red true) [.pclr] .dispatch ∧
    (inPhase (.seq (.pinw .green true) [] .dispatch)).phase = .seq (.pinw .green true) [] .dispatch ∧
    (inPhase (.seq .bufclr [] .dispatch)).phase = .seq .bufclr [] .dispatch ∧
    (inPhase (.seq .pclr [] .scan)).phase = .seq .pclr [] .scan ∧
    (inPhase (.seq .waitFlash [] .dispatch)).phase = .seq .waitFlash [] .dispatch ∧
    (inPhase (.seq (.setst 2#2) [] .dispatch)).phase = .seq (.setst 2#2) [] .dispatch :=
  ⟨rfl, rfl, rfl, rfl, rfl, rfl, rfl, rfl, rfl, rfl, rfl, rfl, rfl, rfl, rfl⟩

/-- IllegalWordRaisesItsFault. -/
theorem test_hyp_illegal_word : ∃ s : State, s.sched = [.handed 0xC000#16] ∧
    decode 0xC000#16 = .error .noKeyCharacter :=
  ⟨{ st0 with sched := [.handed 0xC000#16] }, rfl, rfl⟩

/-- WordNotNamedByPhaseStops. -/
theorem test_hyp_word_not_named : ∃ s : State, s.sched = [.handed 0xD000#16] ∧ decode 0xD000#16 = .ok .cmp ∧
    Instr.cmp.isHandler = false ∧ s.phase.instr ≠ .cmp :=
  ⟨{ st0 with sched := [.handed 0xD000#16] }, rfl, rfl, rfl, by decide⟩

/-- DispChoosesTheWork, its five clauses, and both sides of BTN_IN_ENTRY; RaisedFaultsChangeNothingElse, its first
clause. -/
theorem test_hyp_disp :
    (∃ s : State, s.phase = .dispatch ∧ s.ls = 2#2 ∧ s.pend = false) ∧
    (∃ s : State, s.phase = .dispatch ∧ s.ls = 0#2 ∧ s.pend = true) ∧
    (∃ s : State, s.phase = .dispatch ∧ s.ls = 2#2 ∧ s.pend = true) ∧
    (∃ s : State, s.phase = .dispatch ∧ s.ls = 1#2 ∧ s.cfg.btn = .discard ∧ s.pend = true) ∧
    (∃ s : State, s.phase = .dispatch ∧ s.ls = 1#2 ∧ s.cfg.btn = .retain) ∧
    (∃ s : State, s.phase = .dispatch ∧ s.ls = 3#2) :=
  ⟨⟨{ st0 with ls := 2#2 }, rfl, rfl, rfl⟩, ⟨{ st0 with ls := 0#2, pend := true }, rfl, rfl, rfl⟩,
    ⟨{ st0 with ls := 2#2, pend := true }, rfl, rfl, rfl⟩,
    ⟨{ st0 with pend := true, cfg := { cfg0 with btn := .discard } }, rfl, rfl, rfl, rfl⟩,
    ⟨st0, rfl, rfl, rfl⟩, ⟨{ st0 with ls := 3#2 }, rfl, rfl⟩⟩

/-- SamplePicksTheFirstLowColumn: no column low, and the last column the first low one. -/
theorem test_hyp_sample :
    (∃ s : State, s.phase = .scanSample 3 ∧ s.colIn = 0b111#3) ∧
    (∃ s : State, s.phase = .scanSample 3 ∧ s.colIn.getLsbD (2 : Col).val = false ∧
      ∀ d : Col, d < 2 → s.colIn.getLsbD d.val = true) :=
  ⟨⟨inPhase (.scanSample 3), rfl, by decide⟩,
    ⟨{ inPhase (.scanSample 3) with rowOut := 0b0111#4, pressed := [(3, 2)] }, rfl, by decide, by decide⟩⟩

/-- ColumnSampleIsExactOrADraw, its two clauses, and every column contended at once. -/
theorem test_hyp_column :
    (∃ s : State, ¬ ColumnContended s 1 ∧ (0, 1) ∈ s.pressed) ∧ (∃ s : State, ColumnContended s 1) ∧
    (∃ s : State, (∀ c, ColumnContended s c) ∧ bitsSampled s = 3) :=
  ⟨⟨{ st0 with rowOut := 0b1110#4, pressed := [(0, 1)] }, by decide⟩,
    ⟨{ st0 with rowOut := 0b1110#4, pressed := [(0, 1), (2, 1)] }, by decide⟩,
    ⟨{ st0 with rowOut := 0b1110#4, pressed := [(0, 0), (0, 1), (0, 2), (3, 0), (3, 1), (3, 2)] }, by decide⟩⟩

/-- RwaitPassesOrHolds, its two clauses. -/
theorem test_hyp_rwait :
    (∃ s : State, s.phase = .scanRwait 3 0x23#8 ∧ s.colIn = 0b111#3) ∧
    (∃ s : State, s.phase = .scanRwait 3 0x23#8 ∧ s.colIn ≠ 0b111#3) :=
  ⟨⟨inPhase (.scanRwait 3 0x23#8), rfl, by decide⟩,
    ⟨{ inPhase (.scanRwait 3 0x23#8) with rowOut := 0b0111#4, pressed := [(3, 2)] }, rfl, by decide⟩⟩

/-- RowrelRestoresItsRow, its three cases. -/
theorem test_hyp_rowrel :
    (∃ k, (inPhase (.scanRet 3 0x23#8)).phase = .scanRet 3 k ∧ Phase.key 0x23#8 = .key k) ∧
    ((inPhase (.scanNext 2)).phase = .scanNext 2 ∧
      ∃ q : Row, q.val = (2 : Row).val + 1 ∧ Phase.scanDrive 3 = .scanDrive q) ∧
    ((inPhase (.scanNext 3)).phase = .scanNext 3 ∧ (3 : Row) = 3) :=
  ⟨⟨0x23#8, rfl, rfl⟩, ⟨rfl, 3, rfl, rfl⟩, rfl, rfl⟩

/-- BufappAppendsOrOverflows, both clauses where they meet, and the last append that still flashes;
RaisedFaultsChangeNothingElse, its second clause. -/
theorem test_hyp_bufapp :
    (∃ s : State, s.phase = .key 0x31#8 ∧ (0x31#8 : Byte) ≠ 0#8 ∧ s.len.toNat = 2) ∧
    (∃ s : State, s.phase = .key 0x31#8 ∧ s.len.toNat = 3) ∧ (∃ s : State, s.phase = .key 0x31#8 ∧ s.len.toNat = 4) :=
  ⟨⟨{ inPhase (.key 0x31#8) with len := 2#3 }, rfl, by decide, rfl⟩,
    ⟨{ inPhase (.key 0x31#8) with len := 3#3 }, rfl, rfl⟩, ⟨{ inPhase (.key 0x31#8) with len := 4#3 }, rfl, rfl⟩⟩

/-- CmpComparesEveryPosition, EitherIndicatorOrderCanBeDrawn, RightCodeUnlocks, WrongCodeLocks,
RetainedEventRelocks: the right code, and one wrong only in its last position. -/
theorem test_hyp_cmp :
    (∃ s : State, s.phase = .compare ∧ s.len.toNat = 4 ∧ s.pend = true ∧ s.codeMatches = true ∧
      ∀ i : Fin 4, s.bufRead i.val = s.cfg.ref.extractLsb' (8 * i.val) 8) ∧
    (∃ s : State, s.phase = .compare ∧ s.len.toNat = 4 ∧ s.codeMatches = false ∧
      ¬ ∀ i : Fin 4, s.bufRead i.val = s.cfg.ref.extractLsb' (8 * i.val) 8) :=
  ⟨⟨{ full [0x35#8, 0x34#8, 0x39#8, 0x33#8] with pend := true }, by decide⟩,
    ⟨full [0x35#8, 0x34#8, 0x39#8, 0x2A#8], by decide⟩⟩

/-- SetstWritesTheLockState. -/
theorem test_hyp_setst : (inPhase (.seq (.setst 2#2) [] .dispatch)).phase = .seq (.setst 2#2) [] .dispatch ∧
    (2#2 : LockCode) ≠ 3#2 := by decide

/-- OnlyTheListedMicroOpsWriteARegister: each register is written by some µop. -/
theorem test_hyp_writers :
    (∃ t, exec (.setst 2#2) st0 = .next t ∧ t.ls ≠ st0.ls) ∧
    (∃ t, exec .bufclr { st0 with len := 3#3 } = .next t ∧ t.len ≠ 3#3) ∧
    (∃ t, exec (.bufapp 0x31#8) st0 = .next t ∧ t.buf ≠ st0.buf) ∧
    (∃ t, exec .edge st0 = .next t ∧ t.dc ≠ st0.dc ∧ t.pend ≠ st0.pend) ∧
    (∃ t, exec .disp st0 = .next t ∧ t.phase ≠ st0.phase) ∧
    (∃ t, exec (.rowdrv 3) st0 = .next t ∧ t.rowOut ≠ st0.rowOut ∧ t.trace ≠ st0.trace) ∧
    (∃ t, exec (.pinw .red true) st0 = .next t ∧ t.ledRed ≠ st0.ledRed) ∧
    (∃ t, exec (.pinw .green true) st0 = .next t ∧ t.ledGreen ≠ st0.ledGreen) ∧
    (∃ t, exec (.act true) st0 = .next t ∧ t.pwmCmp ≠ st0.pwmCmp) ∧
    (∃ t, exec (.setst 3#2) st0 = .next t ∧ t.fault ≠ st0.fault) ∧
    (∃ t, exec .cmp st0 = .next t ∧ t.choices ≠ st0.choices) :=
  ⟨⟨_, rfl, by decide⟩, ⟨_, rfl, by decide⟩, ⟨_, rfl, by decide⟩, ⟨_, rfl, by decide⟩, ⟨_, rfl, by decide⟩,
    ⟨_, rfl, by decide⟩, ⟨_, rfl, by decide⟩, ⟨_, rfl, by decide⟩, ⟨_, rfl, by decide⟩, ⟨_, rfl, by decide⟩,
    ⟨_, rfl, by decide⟩⟩

/-- BufferBytesChangeOnlyWhereStored, its two clauses: beside the stored byte, and past the end of the buffer. -/
theorem test_hyp_buffer_bytes :
    (∃ t, exec .cmp (full [0x35#8, 0x34#8, 0x39#8, 0x33#8]) = .next t ∧ ∀ k, Instr.cmp ≠ .bufapp k) ∧
    (∃ t, exec (.bufapp 0x31#8) st0 = .next t ∧ ¬ (0x31#8 ≠ (0#8 : Byte) ∧ st0.len.toNat < 4 ∧ 1 = st0.len.toNat)) ∧
    (∃ t, exec (.bufapp 0x31#8) { st0 with len := 4#3 } = .next t) :=
  ⟨⟨_, rfl, by intro k h; cases h⟩, ⟨_, rfl, by decide⟩, ⟨_, rfl⟩⟩

/-- The statements over one step of MAIN: TraceAndStepLogOnlyGrow, NoStepWritesAParameter. -/
theorem test_hyp_step_main :
    let s := { inPhase (.scanDrive 3) with sched := [.agent .main] }
    s.nextTurn ≠ .agent .reset ∧ ∃ t, step s = .next t ∧ t.trace = [.row 3 false] :=
  ⟨by decide, _, rfl, by decide⟩

/-- FaultIsSticky. -/
theorem test_hyp_sticky :
    let s := { inPhase (.seq .pclr [] .dispatch) with sched := [.agent .main], fault := 2#2 }
    s.nextTurn ≠ .agent .reset ∧ s.fault ≠ 0#2 ∧ ∃ t, step s = .next t :=
  ⟨by decide, by decide, _, rfl⟩

/-- LockStateChangesOnlyBySetst, its three cases: MAIN's turn, the word handed, and a reset. -/
theorem test_hyp_lock_state :
    (∃ t, step { inPhase (.seq (.setst 2#2) [] .dispatch) with sched := [.agent .main] } = .next t ∧
      t.ls ≠ st0.ls) ∧
    (∃ t, step { inPhase (.seq (.setst 2#2) [] .dispatch) with sched := [.handed 0xE002#16] } = .next t ∧
      t.ls ≠ st0.ls) ∧
    (∃ t, step { st0 with sched := [.agent .reset] } = .next t ∧ t.ls ≠ st0.ls) :=
  ⟨⟨_, rfl, by decide⟩, ⟨_, rfl, by decide⟩, _, rfl, by decide⟩

/-- StepKeepsRowsMatchPhase, at the release wait of the last row. -/
theorem test_hyp_rows :
    let s := { inPhase (.scanRwait 3 0x23#8) with rowOut := 0b0111#4, sched := [.agent .main] }
    RowsMatchPhase s ∧ ∃ t, step s = .next t :=
  ⟨by unfold RowsMatchPhase; decide, _, rfl⟩

/-- StepKeepsBufferMatchesPhase: before the fourth append, at COMPARE, and in T_OK before its BUFCLR. -/
theorem test_hyp_buffer_phase :
    (let s := { inPhase (.key 0x31#8) with len := 3#3, sched := [.agent .main] };
      BufferMatchesPhase s ∧ ∃ t, step s = .next t) ∧
    (let s := { full [0x35#8, 0x34#8, 0x39#8, 0x33#8] with sched := [.agent .main] };
      BufferMatchesPhase s ∧ ∃ t, step s = .next t) ∧
    (let s := { inPhase (.seq (.act false) [.pinw .red false, .pinw .green true, .bufclr, .setst 2#2] .dispatch) with
        len := 4#3, sched := [.agent .main] };
      BufferMatchesPhase s ∧ ∃ t, step s = .next t) :=
  ⟨⟨⟨by decide, rfl⟩, _, rfl⟩, ⟨⟨by decide, rfl, rfl⟩, _, rfl⟩,
    ⟨⟨by decide, rfl, fun _ => ⟨rfl, rfl, ⟨true, .inl List.suffix_rfl⟩, by decide⟩⟩, _, rfl⟩⟩

/-- StepKeepsGuardBound, at the bound. -/
theorem test_hyp_guard :
    let s := { st0 with dc := 2#8, sched := [.agent .tick] }
    GuardBounded s ∧ ∃ t, step s = .next t :=
  ⟨by unfold GuardBounded; decide, _, rfl⟩

/-- StepKeepsCanonicalForms, with contents and a closed key. -/
theorem test_hyp_canonical :
    let s := { full [0x35#8, 0x34#8, 0x39#8, 0x33#8] with pressed := [(0, 2), (3, 0)], sched := [.agent (.press (1, 1))] }
    Canonical s ∧ ∃ t, step s = .next t :=
  ⟨by unfold Canonical; decide, _, rfl⟩

/-- StepKeepsBytesBelowLenWritten, ComparisonIgnoresResetBytes, with a full buffer. -/
theorem test_hyp_bytes_written :
    let s := { full [0x35#8, 0x34#8, 0x39#8, 0x33#8] with sched := [.agent .main] }
    BytesBelowLenWritten s ∧ ∃ t, step s = .next t :=
  ⟨by unfold BytesBelowLenWritten; decide, _, rfl⟩

/-- The configuration of the tests is legal. -/
theorem test_cfg0_legal : cfg0.Legal where
  guardPos := by decide
  refAscii := by decide
  keyAscii := by decide
  keyNotNoKey := by decide
  keysDistinct := by decide
  tickPos := by decide
  settlePos := by decide
  flashPos := by decide

/-- SequencerRaisesNoFault: by a turn of MAIN, and by a legal word handed as a step. -/
theorem test_hyp_no_fault :
    (let s := { inPhase (.key 0x31#8) with len := 3#3, sched := [.agent .main] };
      s.cfg.Legal ∧ BufferMatchesPhase s ∧ HeldKeyIsAKey s ∧ s.fault = 0#2 ∧
        (∀ w, s.nextTurn = .handed w → ∃ i, decode w = .ok i) ∧ ∃ t, step s = .next t) ∧
    (let s := { st0 with sched := [.handed 0x2000#16] };
      BufferMatchesPhase s ∧ HeldKeyIsAKey s ∧ s.nextTurn = .handed 0x2000#16 ∧
        decode 0x2000#16 = .ok .edge ∧ ∃ t, step s = .next t) :=
  ⟨⟨test_cfg0_legal, ⟨by decide, rfl⟩, (by decide : (0x31#8 : Byte) ≠ noKey), rfl, (fun _ h => by cases h), _, rfl⟩,
    ⟨⟨by decide, rfl⟩, trivial, rfl, rfl, _, rfl⟩⟩

/-- HandlersNestOrRunInEitherOrder, its clause with a premise. -/
theorem test_hyp_order : ({ st0 with dc := 1#8 } : State).dc = 1#8 := rfl

/-- TicksAgeTheCounter: more ticks than the counter holds. -/
theorem test_hyp_ticks : Action.edge ∉ [.tick, .main, .tick, .press (0, 0), .tick] ∧
    Action.reset ∉ [.tick, .main, .tick, .press (0, 0), .tick] := by decide

/-- AtMostOneEventPerGuardWindow: one tick fewer than GUARD, the first edge unguarded. -/
theorem test_hyp_window : Action.reset ∉ [.edge, .tick, .main, .edge] ∧
    [Action.edge, .tick, .main, .edge].count .tick < st0.cfg.guard.toNat ∧ st0.dc = 0#8 := by decide

/-- EdgeAfterEdgeChangesNothing. -/
theorem test_hyp_edge_edge : st0.cfg.guard ≠ 0#8 ∧ Action.tick ∉ [Action.main, .press (0, 0)] ∧
    Action.reset ∉ [Action.main, .press (0, 0)] ∧
    ∃ t, performAll [.edge, .main, .press (0, 0)] st0 = .next t :=
  ⟨by decide, by decide, by decide, performAll_next _ _⟩

/-- PressBeforePclrIsLost: the edge right before PCLR, and P5, with its edge after three µops of T_LB; the same in the
longer T_UB, with the edge right after DISP. -/
theorem test_hyp_lost :
    (let s := { inPhase (.seq .pclr [] .dispatch) with pend := true };
      s.phase = .seq .pclr [] .dispatch ∧ s.dc = 0#8) ∧
    (let s := { st0 with ls := 0#2, pend := true };
      s.phase = .dispatch ∧ s.pend = true ∧ .reset ∉ [Action.main, .main, .main] ∧ .reset ∉ [Action.main, .main] ∧
        .main ∈ [Action.main, .main, .main] ∧ s.ls = LockCode.locked ∧
        [Action.main, .main, .main].count .main + [Action.main, .main].count .main = 5 ∧
        ∃ u, performAll [.main, .main, .main] s = .next u ∧ u.dc = 0#8) ∧
    (let s := { st0 with ls := 2#2, pend := true };
      s.phase = .dispatch ∧ s.pend = true ∧ .reset ∉ [Action.main] ∧ .reset ∉ List.replicate 5 Action.main ∧
        .main ∈ [Action.main] ∧ s.ls = LockCode.unlocked ∧
        [Action.main].count .main + (List.replicate 5 Action.main).count .main = 6 ∧
        ∃ u, performAll [.main] s = .next u ∧ u.dc = 0#8) :=
  ⟨⟨rfl, rfl⟩, ⟨rfl, rfl, by decide, by decide, by decide, rfl, by decide, _, rfl, by decide⟩,
    ⟨rfl, rfl, by decide, by decide, by decide, rfl, by decide, _, rfl, by decide⟩⟩

/-- ButtonInLockedStartsEntry, ButtonInUnlockedLocks, RightCodeUnlocks, WrongCodeLocks, RetainedEventRelocks: a run
with other agents' turns in it (the states are those of `test_hyp_disp` and `test_hyp_cmp`). -/
theorem test_hyp_runs :
    let six : List Action := [.main, .tick, .main, .main, .press (1, 1), .main, .main, .main]
    Action.reset ∉ six ∧ six.count .main = 6 ∧ Action.edge ∉ six ∧ (.main :: six).count .main = 7 ∧
      Action.reset ∉ Action.main :: six ∧ (six ++ .main :: six).count .main = 13 ∧
      Action.reset ∉ six ++ .main :: six := by decide

/-- IdleWithoutButtonEvents. -/
theorem test_hyp_idle :
    let s := { st0 with ls := 2#2 }
    s.phase = .dispatch ∧ (s.ls = LockCode.locked ∨ s.ls = LockCode.unlocked) ∧ s.pend = false ∧
      Action.edge ∉ [Action.main, .press (0, 0), .main, .tick] ∧
      Action.reset ∉ [Action.main, .press (0, 0), .main, .tick] := by decide

/-- ScanWithNoKeyIsSixteenSteps. -/
theorem test_hyp_scan_no_key :
    let s := inPhase (.scanDrive 0)
    let turns : List Action := .tick :: List.replicate 16 .main
    s.phase = .scanDrive 0 ∧ s.rowOut = 0b1111#4 ∧ s.pressed = [] ∧ (∀ k : Key, .press k ∉ turns) ∧ .reset ∉ turns ∧
      turns.count .main = 16 :=
  ⟨rfl, rfl, rfl, fun _ => by simp, by decide, by decide⟩

/-- ScanReturnsTheClosedKey, the last key of the last row, with a turn held. -/
theorem test_hyp_scan_key :
    let s := { inPhase (.scanDrive 0) with pressed := [((3 : Row), (2 : Col))] }
    let turns : List Action := .edge :: List.replicate 16 .main
    s.phase = .scanDrive 0 ∧ s.rowOut = 0b1111#4 ∧ s.pressed = [(3, 2)] ∧
      (∀ k : Key, .press k ∉ turns ∧ .release k ∉ turns) ∧ .reset ∉ turns ∧ 4 * (3 : Row).val + 3 ≤ turns.count .main :=
  ⟨rfl, rfl, rfl, fun _ => by simp, by decide, by decide⟩

/-! ### Fair schedules -/

/-- ENV opens key (1, 1), then MAIN and the timer take turns. -/
def fair (n : Nat) : Action := if n = 0 then .release (1, 1) else if n % 2 = 1 then .main else .tick

/-- MAIN in the release wait of row 1, key '5' closed. -/
def waiting : State := { inPhase (.scanRwait 1 0x35#8) with rowOut := 0b1101#4, pressed := [(1, 1)] }

/-- MAIN and the handlers leave the keys as they are. -/
theorem exec_pressed {i : Instr} {s t : State} (h : exec i s = .next t) : t.pressed = s.pressed := by
  cases i with
  | tick => cases h; simp only [State.tickWrite]; split <;> rfl
  | edge => cases h; simp only [State.edgeWrite]; split <;> rfl
  | disp => cases h; obtain h | h | h | ⟨p, h⟩ := State.dispatch_cases s <;> simp [h, State.startSeq]
  | rwait r => cases h; split <;> rfl
  | pinw p v => cases h; cases p <;> rfl
  | bufapp k =>
    cases h
    split
    · rfl
    · obtain h | ⟨-, h⟩ := State.append_cases s k <;> simp [h]
  | setst st => cases h; split <;> rfl
  | _ => cases h; rfl

/-- After its first turn the run of `fair` has no closed key, if no other key than (1, 1) was closed. -/
theorem fair_opens (s : State) (hs : (s.releaseKey (1, 1)).pressed = []) (n : Nat) :
    ∃ t, runOf fair s (n + 1) = .next t ∧ t.pressed = [] := by
  induction n with
  | zero => exact ⟨_, rfl, hs⟩
  | succ n ih =>
    obtain ⟨u, hu, hp⟩ := ih
    obtain ⟨t, ht⟩ := perform_next (fair (n + 1)) u
    refine ⟨t, by rw [runOf, hu]; exact ht, ?_⟩
    unfold fair at ht
    simp only [Nat.add_eq_zero_iff, one_ne_zero, and_false, if_false] at ht
    split at ht
    · exact (exec_pressed (i := u.phase.instr) ht).trans hp
    · exact (exec_pressed (i := .tick) ht).trans hp

/-- With every key open each turn of MAIN is a step. -/
theorem mainMoves_of_open (s : State) (h : s.pressed = []) : s.mainMoves = true := by
  have hc (c : Col) : s.colLevel c = true := by simp [State.colLevel, State.contended, State.closedRows, h]
  unfold State.mainMoves
  split
  · simp [State.colIn, hc]
  · rfl

theorem fair_main (s : State) (hs : (s.releaseKey (1, 1)).pressed = []) : MainFair fair s := by
  intro _ n
  obtain ⟨t, ht, hp⟩ := fair_opens s hs (2 * n)
  refine ⟨2 * n + 1, t, by omega, ?_, ht, mainMoves_of_open t hp⟩
  unfold fair; rw [if_neg (by omega), if_pos (by omega)]

/-- GuardWindowEnds, ReleaseWaitEndsUnderReleaseDuty: one schedule meets every premise, and holds MAIN not forever. -/
theorem test_hyp_fair : TickFair fair ∧ MainFair fair waiting ∧ ¬ HeldForever fair waiting ∧
    ReleaseDuty fair waiting ∧ (∀ n, fair n ≠ .reset) ∧ (∀ n x, 0 ≤ n → fair n ≠ .press x) ∧
    waiting.phase = .scanRwait 1 0x35#8 := by
  have hw : (waiting.releaseKey (1, 1)).pressed = [] := by decide
  refine ⟨fun n => ⟨2 * n + 2, by omega, ?_⟩, fair_main waiting hw, ?_, fun n t k _ _ => ?_, fun n => ?_,
    fun n x _ => ?_, rfl⟩
  · unfold fair; rw [if_neg (by omega), if_neg (by omega)]
  · rintro ⟨n, h⟩
    obtain ⟨t, ht, hp⟩ := fair_opens waiting hw n
    have he : t.mainEnabled = true := by
      unfold State.mainEnabled
      split
      · simp [State.canReadAllHigh, State.closedRows, hp]
      · rfl
    simp [h (n + 1) t (by omega) ht] at he
  · obtain ⟨u, hu, hp⟩ := fair_opens waiting hw n
    exact ⟨n + 1, u, by omega, hu, by simp [hp]⟩
  · unfold fair; split; · decide
    split <;> decide
  · unfold fair; split; · simp
    split <;> simp

/-- QueueDrainsUnderFairMain. -/
theorem test_hyp_queue :
    let s := inPhase (.seq (.act false) [.setst 2#2] .dispatch)
    MainFair fair s ∧ (∀ n, fair n ≠ .reset) ∧ s.phase = .seq (.act false) [.setst 2#2] .dispatch ∧
      SeqOp.setst 3#2 ∉ [.act false, .setst 2#2] :=
  ⟨fair_main _ (by decide), test_hyp_fair.2.2.2.2.1, rfl, by decide⟩

/-- 44 R186, 42 R128: MAIN is held in the release wait while its key is closed, and enabled once it opens. -/
theorem test_main_moves :
    waiting.mainEnabled = false ∧ waiting.mainMoves = false ∧ (waiting.releaseKey (1, 1)).mainEnabled = true := by
  decide

/-! ### The timed refinement -/

/-- V17, with a scan's first steps between: an edge at 0.5 ms, a row driven at 5 ms and settled at 7 ms with a tick and
an edge inside the settle delay, another edge at 50 ms. -/
def turns17 : List (Time × Action) :=
  [(1 / 2, .edge), (5, .main), (6, .tick), (13 / 2, .edge), (7, .main), (50, .edge)]

/-- EdgesWithinAPeriodGiveAtMostOneEvent, its last clause: V17, begun at 0 ms and seen until 60 ms. -/
theorem test_hyp_timed_edges :
    let s := inPhase (.scanDrive 0)
    (∃ t, TimedRun turns17 s t 0 0 60) ∧
      (∀ x ∈ timesOf .edge turns17, ∀ y ∈ timesOf .edge turns17, y < x + s.cfg.tickMs) ∧ 2 ≤ s.cfg.guard.toNat := by
  have he : timesOf .edge turns17 = [1 / 2, 13 / 2, 50] := rfl
  have ht : timesOf .tick turns17 = [6] := rfl
  refine ⟨⟨_, by decide, rfl, le_rfl, by norm_num, ?_, ?_, ⟨6, 1, by norm_num, ?_, ?_, ?_⟩, ?_⟩, ?_, by decide⟩
  · unfold turns17; simp; norm_num
  · unfold turns17; simp; norm_num
  · norm_num [inPhase, st0, cfg0, Config.default]
  · simp [ht, tickTimes]
  · norm_num [inPhase, st0, cfg0, Config.default]
  · exact ⟨(by norm_num : (0 : Time) < 1 / 2), _, rfl,
      (turnInTime_main rfl).2 ⟨(by norm_num : (0 : Time) < 5), (by norm_num : (1 / 2 : Time) < 5)⟩, _, rfl,
      (by norm_num : (5 : Time) < 6), _, rfl, (by norm_num : (6 : Time) < 13 / 2), _, rfl,
      (turnInTime_wait (d := 2) rfl).2 (by norm_num : (7 : Time) = 5 + 2), _, rfl,
      (by norm_num : (13 / 2 : Time) < 50), _, rfl, fun d hd => by cases hd⟩
  · simp only [he, List.mem_cons, List.not_mem_nil, or_false]
    rintro x (rfl | rfl | rfl) y (rfl | rfl | rfl) <;> norm_num [inPhase, st0, cfg0, Config.default]

/-- EdgesWithinAPeriodGiveAtMostOneEvent, its first clause: the first edge of V17, which finds `dc = 0`, and its last,
with a tick and an edge between. -/
theorem test_hyp_timed_two_edges :
    turns17 = [] ++ (1 / 2, .edge) :: [(5, .main), (6, .tick), (13 / 2, .edge), (7, .main)] ++ (50, .edge) :: [] ∧
      (50 : Time) < 1 / 2 + cfg0.tickMs ∧
      performAll [] (inPhase (.scanDrive 0)) = .next (inPhase (.scanDrive 0)) ∧ (inPhase (.scanDrive 0)).dc = 0#8 :=
  ⟨rfl, by norm_num [cfg0, Config.default], rfl, rfl⟩

/-- 70 R247, 42 R126: MAIN in a settle delay at 0 ms, its row driven then, is not still in it at 10000 ms, and does not
leave it at another time than 2 ms. -/
theorem test_wait_is_due (l : List (Time × Action)) (finish : Time) :
    (¬ TurnsInTime [] (inPhase (.scanSettle 0)) 0 0 10000) ∧
    (∀ x, TurnsInTime ((x, .main) :: l) (inPhase (.scanSettle 0)) 0 0 finish → x = 2) := by
  constructor
  · intro h
    have := h 2 rfl
    norm_num at this
  · rintro x ⟨⟨h, -⟩, -⟩
    have := h 2 rfl
    simpa using this

/-- 70 R247: after a ROWDRV that ended at 5 ms a WAIT SETTLE that never comes is due. -/
theorem test_wait_is_due_after_drive : ¬ TurnsInTime [(5, .main)] (inPhase (.scanDrive 0)) 0 0 10000 := by
  rintro ⟨-, u, hu, h⟩
  cases hu
  have := h 2 rfl
  norm_num [nextSince] at this

/-- 40 R104: a run whose first tick comes later than a TICK_PERIOD is no timed run. -/
theorem test_late_tick (t : State) : ¬ TimedRun [(10000, .tick)] st0 t 0 0 10000 := by
  rintro ⟨-, -, -, -, -, -, ⟨first, n, -, h, ht, hf⟩, -⟩
  have h1 : timesOf .tick [(10000, .tick)] = [10000] := rfl
  rw [h1] at ht
  cases n with
  | zero => simp [tickTimes] at ht
  | succ n =>
    simp only [tickTimes, List.range_succ_eq_map] at ht
    norm_num [st0, cfg0, Config.default] at h ht
    linarith [ht.1]

/-- The state after an EDGE that `st0` accepts. -/
def guarded : State := { st0 with dc := 2#8, pend := true, stepLog := [.word 0x2000#16] }

/-- GuardWindowLastsGuardTicks: V18, the edge at 0 ms, ticks at 100 ms and 350 ms, seen until 350 ms, when the window
ends; and seen until 200 ms, before that. -/
theorem test_hyp_timed_guard :
    st0.dc = 0#8 ∧ st0.cfg.guard ≠ 0#8 ∧ perform .edge st0 = .next guarded ∧
      (∃ t, TimedRun [(100, .tick), (350, .tick)] guarded t 0 0 350) ∧
      (∃ t, TimedRun [(100, .tick)] guarded t 0 0 200) := by
  refine ⟨rfl, by decide, rfl,
    ⟨_, by decide, rfl, le_rfl, by norm_num, by norm_num, by simp; norm_num, ⟨100, 2, by norm_num, ?_, ?_, ?_⟩, ?_⟩,
    ⟨_, by decide, rfl, le_rfl, by norm_num, by norm_num, by simp, ⟨100, 1, by norm_num, ?_, ?_, ?_⟩, ?_⟩⟩
  · norm_num [guarded, st0, cfg0, Config.default]
  · norm_num [timesOf, tickTimes, List.range_succ, guarded, st0, cfg0, Config.default]
  · norm_num [guarded, st0, cfg0, Config.default]
  · refine ⟨?_, _, rfl, ?_, _, rfl, fun d hd => by cases hd⟩ <;> norm_num [turnInTime]
  · norm_num [guarded, st0, cfg0, Config.default]
  · norm_num [timesOf, tickTimes, List.range_succ, guarded, st0, cfg0, Config.default]
  · norm_num [guarded, st0, cfg0, Config.default]
  · refine ⟨?_, _, rfl, fun d hd => by cases hd⟩
    norm_num [turnInTime]

end Sys2Proof.Tests
end

/-! 00 R7: the configuration registers along a step. DISP's, BUFAPP's and a reset's effect keep them, so every µop
does, and so every step. -/

namespace Sys2Proof.Machine

@[simp] theorem State.powerCycle_cfg (s : State) : s.powerCycle.cfg = s.cfg := rfl

@[simp] theorem State.dispatch_cfg (s : State) : s.dispatch.cfg = s.cfg := by
  obtain h | h | h | ⟨p, h⟩ := s.dispatch_cases <;> simp [h]

@[simp] theorem State.append_cfg (s : State) (k : Byte) : (s.append k).cfg = s.cfg := by
  obtain h | ⟨-, h⟩ := s.append_cases k <;> simp [h]

/-- 00 R7 for one µop: whether it takes effect, raises a fault or holds, it writes no configuration register. -/
theorem exec_cfg {i : Instr} {s t : State} (h : exec i s = .next t) : t.cfg = s.cfg := by
  cases i with
  | tick | edge | disp | pinw => cases h; simp
  | rwait | bufapp | setst => cases h; split <;> simp
  | _ => cases h; rfl

/-- Settles O32: the µop, the raised illegal word, ENV's key actions and the reset each keep the configuration. -/
theorem noStepWritesAParameter : Obligations.NoStepWritesAParameter := by
  intro s t h
  obtain ⟨i, -, -, h⟩ | ⟨w, -, -, -, rfl⟩ | ⟨k, -, rfl⟩ | ⟨k, -, rfl⟩ | ⟨-, rfl⟩ := step_cases h
  · simpa using exec_cfg h
  all_goals simp

end Sys2Proof.Machine

/-! 10 R40, 70 R230: the values reset leaves do not depend on the configuration, the schedule or the draws. -/

namespace Sys2Proof.Machine

theorem State.powerOn_resetValues (cfg : CfgRegs) (sched : List Turn) (choices : List Bool) (n : Nat) :
    ResetValues (State.powerOn cfg sched choices n) :=
  ⟨rfl, rfl, rfl, rfl, rfl, rfl, rfl, rfl⟩

/-- Settles O5: `State.reset` and the state after a reset turn are both a `State.powerOn`. -/
theorem resetLeavesTheStatedValues : Obligations.ResetLeavesTheStatedValues :=
  ⟨State.powerOn_resetValues _ _ _ _,
    fun s => ⟨s.powerCycle, rfl, State.powerOn_resetValues _ _ _ _, s.powerCycle_cfg⟩⟩

end Sys2Proof.Machine

/-! 10 R28: the phase along a turn. MAIN runs the µop its phase names, a µop of a SEQ moves on to what is left of it,
and no handler or ENV action moves the phase. -/

namespace Sys2Proof.Machine

theorem perform_main {s : State} {p : Phase} (h : s.phase = p) : perform .main s = exec p.instr s := by
  subst h; rfl

@[simp] theorem enqueue_nil (nxt : SeqNext) : enqueue [] nxt = nxt.phase := rfl

@[simp] theorem enqueue_cons (u : SeqOp) (q : List SeqOp) (nxt : SeqNext) : enqueue (u :: q) nxt = .seq u q nxt := rfl

@[simp] theorem SeqNext.phase_dispatch : SeqNext.dispatch.phase = .dispatch := rfl

@[simp] theorem SeqNext.phase_scan : SeqNext.scan.phase = .scanDrive 0 := rfl

@[simp] theorem Phase.afterWait_seq (u : SeqOp) (q : List SeqOp) (nxt : SeqNext) :
    (Phase.seq u q nxt).afterWait = enqueue q nxt := rfl

/-- 10 R28, the SEQ row: the µop at the head of a SEQ leaves the phase at the rest of it. SETST 3 raises a fault
instead and stays (60 R200). -/
theorem exec_seqOp_phase {s t : State} {u : SeqOp} {q : List SeqOp} {nxt : SeqNext} (hp : s.phase = .seq u q nxt)
    (hu : u ≠ .setst LockCode.reserved) (h : exec u.instr s = .next t) : t.phase = enqueue q nxt := by
  cases u with
  | setst st =>
    have hst : st ≠ LockCode.reserved := fun he => hu (he ▸ rfl)
    cases h
    simp [hst, hp]
  | act | pinw | bufclr | pclr | waitFlash => cases h; simp [hp]

/-- 10 R35, 60 R205: a handler returns to the phase it found. -/
theorem exec_handler_phase {i : Instr} {s t : State} (hi : i.isHandler = true) (h : exec i s = .next t) :
    t.phase = s.phase := by
  cases i with
  | tick | edge => cases h; simp
  | _ => cases hi

theorem perform_phase_of_not_main {a : Action} {s t : State} (hm : a ≠ .main) (hr : a ≠ .reset)
    (h : perform a s = .next t) : t.phase = s.phase := by
  cases a with
  | main => exact absurd rfl hm
  | reset => exact absurd rfl hr
  | tick => exact exec_handler_phase (i := .tick) rfl h
  | edge => exact exec_handler_phase (i := .edge) rfl h
  | press k | release k => cases h; simp

/-- Settles O8: the table is `Phase.instr`, read off by `perform_main`; the SEQ's continuation is
`exec_seqOp_phase`, and the other agents' turns are `perform_phase_of_not_main`. -/
theorem phaseNamesItsMicroOp : Obligations.PhaseNamesItsMicroOp := by
  intro s
  refine ⟨perform_main, fun _ => perform_main, fun _ => perform_main, fun _ => perform_main,
    fun _ _ => perform_main, fun _ _ => perform_main, fun _ => perform_main, fun _ => perform_main, perform_main,
    fun _ _ _ => perform_main, fun _ _ _ _ => perform_main, fun _ _ => perform_main, fun _ _ _ => perform_main,
    fun _ _ => perform_main, fun _ _ => perform_main, ?_, fun _ _ => perform_phase_of_not_main⟩
  intro u q nxt t hp hu h
  have ht : t.phase = enqueue q nxt := exec_seqOp_phase hp hu (perform_main hp ▸ h)
  refine ⟨?_, ?_, ?_⟩
  · rintro rfl rfl
    simpa using ht
  · rintro rfl rfl
    simpa using ht
  · rintro v rest rfl
    simpa using ht

end Sys2Proof.Machine

/-! 30 R71 to R75, R83: the decoder inverts the encoder on the well-formed µops and accepts no other word. A word whose
reserved bits are clear is its opcode, zeros and its operand bits, and each operand field gives back its bits. -/

namespace Sys2Proof

theorem ifReservedClear_eq_ok {w reserved : Word} {i j : Instr} :
    ifReservedClear w reserved i = .ok j ↔ w &&& reserved = 0#16 ∧ i = j := by
  unfold ifReservedClear
  split <;> simp [*]

/-- 30 R71, R74: the formats, with `m` reserved bits between the opcode and the `n` operand bits. -/
theorem fields_eq_of_reserved_clear {m n : Nat} {op : BitVec 4} {w reserved : BitVec (4 + m + n)}
    (hmask : 0#4 ++ BitVec.allOnes m ++ 0#n = reserved) (hop : (w.extractLsb' (n + m) 4).toNat = op.toNat)
    (hclear : w &&& reserved = 0) : op ++ 0#m ++ w.extractLsb' 0 n = w := by
  have hsplit : w.extractLsb' (n + m) 4 ++ w.extractLsb' n m ++ w.extractLsb' 0 n = w := by
    rw [BitVec.extractLsb'_append_extractLsb'_eq_extractLsb' rfl, BitVec.extractLsb'_append_extractLsb']
  have hmiddle : 0#m = w.extractLsb' n m := calc
    0#m = (w &&& reserved).extractLsb' n m := by simp [hclear]
    _ = w.extractLsb' n m := by
      rw [BitVec.extractLsb'_and, ← hmask, BitVec.extractLsb'_append_eq_of_le le_rfl, Nat.sub_self,
        BitVec.extractLsb'_append_eq_right, BitVec.and_allOnes]
  rw [← BitVec.eq_of_toNat_eq hop, hmiddle, hsplit]

/-- 30 R71: the format without operands. -/
theorem opcode_eq_of_reserved_clear {op : BitVec 4} {w : Word} (hop : (w.extractLsb' 12 4).toNat = op.toNat)
    (hclear : w &&& 0x0FFF#16 = 0#16) : op ++ 0#12 = w :=
  (BitVec.append_zero_width _ _).symm.trans (fields_eq_of_reserved_clear (m := 12) (n := 0) rfl hop hclear)

theorem rowField_bits (w : Word) : BitVec.ofNat 2 (rowField w).val = w.extractLsb' 0 2 := by
  apply BitVec.eq_of_toNat_eq
  simp [rowField]

theorem ofBool_getLsbD (w : Word) (n : Nat) : BitVec.ofBool (w.getLsbD n) = w.extractLsb' n 1 := by
  ext j hj
  obtain rfl : j = 0 := by omega
  simp

theorem kindField_bit (w : Word) : (kindField w).bit = w.extractLsb' 0 1 := by
  rw [← ofBool_getLsbD, kindField]
  cases w.getLsbD 0 <;> rfl

theorem pinField_bit (w : Word) : (pinField w).bit = w.extractLsb' 1 1 := by
  rw [← ofBool_getLsbD, pinField]
  cases w.getLsbD 1 <;> rfl

theorem pinField_append_level (w : Word) :
    (pinField w).bit ++ BitVec.ofBool (w.getLsbD 0) = w.extractLsb' 0 2 := by
  rw [pinField_bit, ofBool_getLsbD]
  exact BitVec.extractLsb'_append_extractLsb'_eq_extractLsb' rfl

/-- 30 R70 to R75: branch `h_n` of the decoder is opcode `n`, and `h_16` the reserved opcode. -/
theorem encode_of_decode {w : Word} {i : Instr} (h : decode w = .ok i) : i.wellFormed = true ∧ encode i = w := by
  unfold decode at h
  split at h
  case h_16 => cases h
  case h_12 hop | h_14 hop =>
    split at h
    · cases h
    next hlegal =>
      obtain ⟨hclear, rfl⟩ := ifReservedClear_eq_ok.1 h
      refine ⟨bne_iff_ne.2 fun hval => hlegal ⟨hval, hclear⟩, ?_⟩
      rw [encode]
      exact fields_eq_of_reserved_clear rfl hop hclear
  all_goals
    rename_i hop
    obtain ⟨hclear, rfl⟩ := ifReservedClear_eq_ok.1 h
    refine ⟨rfl, ?_⟩
    rw [encode]
  case h_4 | h_5 | h_7 | h_8 =>
    rw [rowField_bits]
    exact fields_eq_of_reserved_clear rfl hop hclear
  case h_6 =>
    rw [kindField_bit]
    exact fields_eq_of_reserved_clear rfl hop hclear
  case h_9 =>
    rw [ofBool_getLsbD]
    exact fields_eq_of_reserved_clear rfl hop hclear
  case h_10 =>
    rw [BitVec.append_assoc, pinField_append_level]
    exact fields_eq_of_reserved_clear rfl hop hclear
  all_goals exact opcode_eq_of_reserved_clear hop hclear

theorem decode_encode_bufapp {k : Byte} (hk : k ≠ noKey) : decode (encode (.bufapp k)) = .ok (.bufapp k) := by
  have hop : (encode (.bufapp k)).extractLsb' 12 4 = 0xC#4 := by
    rw [encode, BitVec.extractLsb'_append_eq_of_le (by decide)]
    rfl
  have hclear : encode (.bufapp k) &&& 0x0F00#16 = 0#16 :=
    (BitVec.and_append (x₂ := 0x0F#8) (y₂ := 0#8)).trans (by simp)
  have hchar : charField (encode (.bufapp k)) = k := BitVec.extractLsb'_append_eq_right
  simp [decode, hop, hchar, hk, ifReservedClear, hclear]

theorem decode_encode {i : Instr} (h : i.wellFormed = true) : decode (encode i) = .ok i := by
  cases i with
  | rowdrv r | rowrel r | sample r | rwait r => revert r; decide
  | wait kind => cases kind <;> rfl
  | act locked => cases locked <;> rfl
  | pinw pin v => cases pin <;> cases v <;> rfl
  | bufapp k => exact decode_encode_bufapp (bne_iff_ne.1 h)
  | setst st => revert st; decide
  | _ => rfl

/-- 30 R71 to R75: the words a µop is decoded from are its own word if it is well-formed, and none otherwise. -/
theorem decode_eq_ok_iff {w : Word} {i : Instr} : decode w = .ok i ↔ i.wellFormed = true ∧ w = encode i := by
  constructor
  · intro h
    obtain ⟨hwf, hw⟩ := encode_of_decode h
    exact ⟨hwf, hw.symm⟩
  · rintro ⟨hwf, rfl⟩
    exact decode_encode hwf

theorem decode_eq_ok_iff_eq {w v : Word} {i : Instr} (hwf : i.wellFormed = true) (hv : encode i = v) :
    decode w = .ok i ↔ w = v := by
  simp [decode_eq_ok_iff, hwf, hv]

theorem opcode_append_row (op : BitVec 4) (r : Row) :
    op ++ 0#10 ++ BitVec.ofNat 2 r.val = (op ++ 0#12) ||| BitVec.ofNat 16 r.val := by
  revert op r; decide

theorem encode_bufapp (k : Byte) : encode (.bufapp k) = 0xC000#16 ||| k.setWidth 16 :=
  BitVec.append_def _ _

/-- Settles O3: `decode_eq_ok_iff` for each row of the listing, whose word is the encoder's. -/
theorem legalWordsAreTheListing : Obligations.LegalWordsAreTheListing := fun _ =>
  have word {w v i} := @decode_eq_ok_iff_eq w v i
  ⟨word rfl rfl, word rfl rfl, word rfl rfl,
    fun r => word rfl (opcode_append_row 0x4#4 r), fun r => word rfl (opcode_append_row 0x5#4 r),
    word rfl rfl, word rfl rfl,
    fun r => word rfl (opcode_append_row 0x7#4 r), fun r => word rfl (opcode_append_row 0x8#4 r),
    word rfl rfl, word rfl rfl, word rfl rfl, word rfl rfl, word rfl rfl, word rfl rfl, word rfl rfl,
    fun k => by rw [decode_eq_ok_iff, encode_bufapp, Instr.wellFormed, bne_iff_ne],
    word rfl rfl, word rfl rfl, word rfl rfl, word rfl rfl,
    fun h => Bool.false_ne_true (decode_eq_ok_iff.1 h).1, word rfl rfl⟩

end Sys2Proof

/-! 40 R100, R103: what TICK does, and the debounce counter along a run without an EDGE. Every turn but a handler's and
a reset's leaves `dc` alone. -/

namespace Sys2Proof.Machine

/-- 40 R100: the comparison and the decrement on 8-bit values are those on their numbers. -/
theorem State.tickWrite_self (s : State) :
    s.tickWrite s.dc = { s with dc := if 0 < s.dc.toNat then BitVec.ofNat 8 (s.dc.toNat - 1) else s.dc } := by
  by_cases h : 0#8 < s.dc
  · have hpos : 0 < s.dc.toNat := BitVec.lt_def.1 h
    have hdec : s.dc - 1#8 = BitVec.ofNat 8 (s.dc.toNat - 1) := by bv_omega
    rw [State.tickWrite, if_pos h, if_pos hpos, hdec]
  · have hzero : ¬ 0 < s.dc.toNat := fun hpos => h (BitVec.lt_def.2 hpos)
    rw [State.tickWrite, if_neg h, if_neg hzero]

/-- Settles O12: `State.tickWrite_self`, with TICK's word appended to the step log. -/
theorem tickLowersTheCounter : Obligations.TickLowersTheCounter :=
  ⟨rfl, fun s => by rw [exec, execTick, s.tickWrite_self]; rfl⟩

/-- 40 R103: TICK is a decrement of the counter's number that saturates at 0. -/
theorem exec_tick_dc {s t : State} (h : exec .tick s = .next t) : t.dc.toNat = s.dc.toNat - 1 := by
  rw [tickLowersTheCounter.2 s] at h
  cases h
  dsimp only
  split
  · rw [BitVec.toNat_ofNat]
    omega
  · omega

@[simp] theorem State.dispatch_dc (s : State) : s.dispatch.dc = s.dc := by
  obtain h | h | h | ⟨p, h⟩ := s.dispatch_cases <;> simp [h]

@[simp] theorem State.append_dc (s : State) (k : Byte) : (s.append k).dc = s.dc := by
  obtain h | ⟨-, h⟩ := s.append_cases k <;> simp [h]

/-- 10 R20, the dc row: only the two handlers write it. -/
theorem exec_dc_of_not_handler {i : Instr} {s t : State} (hi : i.isHandler = false) (h : exec i s = .next t) :
    t.dc = s.dc := by
  cases i with
  | tick | edge => cases hi
  | disp | pinw => cases h; simp
  | rwait | bufapp | setst => cases h; split <;> simp
  | _ => cases h; rfl

/-- 10 R28: the µop a phase names is MAIN's. -/
theorem Phase.instr_not_handler (p : Phase) : p.instr.isHandler = false := by
  cases p with
  | seq u => cases u <;> rfl
  | _ => rfl

/-- 40 R103 for one turn of a run without an EDGE and a reset: the counter goes down by the TICKs in it. -/
theorem perform_dc {a : Action} {s t : State} (he : a ≠ .edge) (hr : a ≠ .reset) (h : perform a s = .next t) :
    t.dc.toNat = s.dc.toNat - [a].count .tick := by
  cases a with
  | edge => exact absurd rfl he
  | reset => exact absurd rfl hr
  | tick => exact exec_tick_dc h
  | main => exact congrArg _ (exec_dc_of_not_handler s.phase.instr_not_handler h)
  | press k | release k => cases h; simp

theorem performAll_cons {a : Action} {s t : State} (h : perform a s = .next t) (as : List Action) :
    performAll (a :: as) s = performAll as t := by
  rw [performAll, h]

/-- Settles O44, by induction on the run: `perform_dc` at each turn, and what two runs take off adds up. -/
theorem ticksAgeTheCounter : Obligations.TicksAgeTheCounter := by
  intro as
  induction as with
  | nil => exact fun s _ _ => ⟨s, rfl, rfl⟩
  | cons a as ih =>
    intro s he hr
    rw [List.mem_cons, not_or, ← ne_eq] at he hr
    obtain ⟨hae, he⟩ := he
    obtain ⟨har, hr⟩ := hr
    obtain ⟨u, hu⟩ := perform_next a s
    have hfirst := perform_dc hae.symm har.symm hu
    obtain ⟨t, ht, hrest⟩ := ih u he hr
    refine ⟨t, (performAll_cons hu as).trans ht, ?_⟩
    calc t.dc.toNat = s.dc.toNat - [a].count .tick - as.count .tick := by rw [hrest, hfirst]
      _ = s.dc.toNat - (a :: as).count .tick := by rw [Nat.sub_sub, ← List.count_append]; rfl

end Sys2Proof.Machine

/-! 41 R110, R112: what EDGE does, and the edges a run accepts. An accepted EDGE loads GUARD, and while the counter
exceeds the ticks still to come no EDGE is accepted. -/

namespace Sys2Proof.Machine

/-- 41 R110: the test on the 8-bit counter is that on its number, and either branch leaves what EDGE does not name. -/
theorem State.edgeWrite_self (s : State) :
    s.edgeWrite s.dc = { s with
      pend := if s.dc.toNat = 0 then true else s.pend
      dc := if s.dc.toNat = 0 then s.cfg.guard else s.dc } := by
  have hnum : s.dc = 0#8 ↔ s.dc.toNat = 0 := BitVec.toNat_eq
  by_cases h : s.dc.toNat = 0
  · simp only [State.edgeWrite, hnum, if_pos h, State.setPend]
  · simp only [State.edgeWrite, hnum, if_neg h]

/-- Settles O13: `State.edgeWrite_self`, with EDGE's word appended to the step log. -/
theorem edgeSetsTheFlagWhenUnguarded : Obligations.EdgeSetsTheFlagWhenUnguarded :=
  ⟨rfl, fun s => by rw [exec, execEdge, s.edgeWrite_self]; rfl⟩

theorem exec_edge_dc {s t : State} (h : exec .edge s = .next t) :
    t.dc = if s.dc = 0#8 then s.cfg.guard else s.dc := by
  cases h
  simp [State.edgeWrite_dc]

/-- 00 R7 for one turn of an agent. -/
theorem perform_cfg {a : Action} {s t : State} (h : perform a s = .next t) : t.cfg = s.cfg := by
  cases a with
  | main => exact exec_cfg h
  | tick => exact exec_cfg (i := .tick) h
  | edge => exact exec_cfg (i := .edge) h
  | press k | release k | reset => cases h; simp

/-- 40 R103, 41 R110: while the counter is not 0 an EDGE leaves it alone too, so a turn takes its TICKs off it. -/
theorem perform_dc_of_guarded {a : Action} {s t : State} (hd : s.dc ≠ 0#8) (hr : a ≠ .reset)
    (h : perform a s = .next t) : t.dc.toNat = s.dc.toNat - [a].count .tick := by
  by_cases he : a = .edge
  · subst he
    rw [exec_edge_dc h, if_neg hd]
    rfl
  · exact perform_dc he hr h

theorem acceptedEdges_cons {a : Action} {s t : State} (h : perform a s = .next t) (as : List Action) :
    acceptedEdges (a :: as) s = (if a = .edge ∧ s.dc = 0#8 then 1 else 0) + acceptedEdges as t := by
  rw [acceptedEdges, h]

theorem acceptedEdges_cons_of_not_accepted {a : Action} {s t : State} (ha : ¬ (a = .edge ∧ s.dc = 0#8))
    (h : perform a s = .next t) (as : List Action) : acceptedEdges (a :: as) s = acceptedEdges as t := by
  rw [acceptedEdges_cons h, if_neg ha, Nat.zero_add]

/-- 41 R112, the guard: a run with fewer ticks than the counter holds accepts no edge. -/
theorem acceptedEdges_eq_zero_of_guarded (as : List Action) (s : State) (hr : .reset ∉ as)
    (hc : as.count .tick < s.dc.toNat) : acceptedEdges as s = 0 := by
  induction as generalizing s with
  | nil => rfl
  | cons a as ih =>
    obtain ⟨har, hr⟩ := List.ne_and_not_mem_of_not_mem_cons hr
    obtain ⟨t, ht⟩ := perform_next a s
    have hcount : (a :: as).count .tick = [a].count .tick + as.count .tick := List.count_append (l₁ := [a])
    have hd : s.dc ≠ 0#8 := fun h => by simp [h] at hc
    have hdc := perform_dc_of_guarded hd har.symm ht
    rw [acceptedEdges_cons_of_not_accepted (fun h => hd h.2) ht]
    exact ih t hr (by omega)

/-- 41 R112: an accepted edge is the only one of a run with fewer than GUARD ticks after it. -/
theorem acceptedEdges_edge_cons {as : List Action} {s : State} (hr : .reset ∉ as)
    (hc : as.count .tick < s.cfg.guard.toNat) (hd : s.dc = 0#8) : acceptedEdges (.edge :: as) s = 1 := by
  obtain ⟨t, ht⟩ := perform_next .edge s
  have hguard : t.dc = s.cfg.guard := (exec_edge_dc ht).trans (if_pos hd)
  rw [acceptedEdges_cons ht, if_pos ⟨rfl, hd⟩, acceptedEdges_eq_zero_of_guarded as t hr (hguard ▸ hc)]

/-- 41 R112: up to its first accepted edge a run accepts none, and after it none within the GUARD ticks. -/
theorem acceptedEdges_le_one (as : List Action) (s : State) (hr : .reset ∉ as)
    (hc : as.count .tick < s.cfg.guard.toNat) : acceptedEdges as s ≤ 1 := by
  induction as generalizing s with
  | nil => exact Nat.zero_le 1
  | cons a as ih =>
    have hr' : .reset ∉ as := List.not_mem_of_not_mem_cons hr
    have hc' : as.count .tick < s.cfg.guard.toNat := List.count_le_count_cons.trans_lt hc
    by_cases ha : a = .edge ∧ s.dc = 0#8
    · obtain ⟨rfl, hd⟩ := ha
      exact (acceptedEdges_edge_cons hr' hc' hd).le
    · obtain ⟨t, ht⟩ := perform_next a s
      rw [acceptedEdges_cons_of_not_accepted ha ht]
      exact ih t hr' (perform_cfg ht ▸ hc')

/-- Settles O45: `acceptedEdges_le_one`, and `acceptedEdges_edge_cons` for the run that starts unguarded. -/
theorem atMostOneEventPerGuardWindow : Obligations.AtMostOneEventPerGuardWindow := fun as s hr hc =>
  ⟨acceptedEdges_le_one as s hr hc, acceptedEdges_edge_cons hr hc⟩

end Sys2Proof.Machine

/-! 42 R123 to R129: what the scanner's µops do. ROWDRV, WAIT, SAMPLE and ROWREL have one equation each for the whole
next state; the first low column and the row after ROWREL's are the facts their phases turn on. -/

namespace Sys2Proof.Machine

/-! ### ROWDRV and WAIT -/

theorem encode_rowdrv (r : Row) : encode (.rowdrv r) = 0x4000#16 ||| BitVec.ofNat 16 r.val :=
  opcode_append_row 0x4#4 r

theorem exec_rowdrv (r : Row) (s : State) :
    exec (.rowdrv r) s = .next { s with
      rowOut := (s.driveRow r false).rowOut
      trace := s.trace ++ [.row r false]
      phase := .scanSettle r
      stepLog := s.stepLog ++ [.word (0x4000#16 ||| BitVec.ofNat 16 r.val)] } := by
  rw [← encode_rowdrv]
  rfl

/-- Settles O15: `exec_rowdrv`, whose row lines `State.rowLevel_driveRow` reads. -/
theorem rowdrvDrivesItsRowLow : Obligations.RowdrvDrivesItsRowLow := fun r s _ =>
  ⟨_, exec_rowdrv r s, fun q => s.rowLevel_driveRow r q false, rfl⟩

@[simp] theorem Phase.afterWait_scanSettle (r : Row) : (Phase.scanSettle r).afterWait = .scanSample r := rfl

theorem exec_wait (kind : WaitKind) (s : State) :
    exec (.wait kind) s = .next { s with
      phase := s.phase.afterWait
      stepLog := s.stepLog ++ [.word (encode (.wait kind))] } := rfl

/-- Settles O16: `exec_wait` in the two phases that name a WAIT. -/
theorem waitChangesThePhaseOnly : Obligations.WaitChangesThePhaseOnly := by
  constructor
  · intro r s hp
    rw [exec_wait, hp, Phase.afterWait_scanSettle]
    rfl
  · intro q nxt s hp
    rw [exec_wait, hp, Phase.afterWait_seq]
    rfl

/-! ### SAMPLE -/

/-- 42 R123: the lowest low column is the one the scan takes. -/
theorem firstLow_eq_some_iff {cols : BitVec 3} {c : Col} :
    firstLow cols = some c ↔ cols.getLsbD c.val = false ∧ ∀ d : Col, d < c → cols.getLsbD d.val = true := by
  revert cols c
  decide

@[simp] theorem samplePhase_all_high (cfg : CfgRegs) (r : Row) : samplePhase cfg r 0b111#3 = .scanNext r := rfl

theorem samplePhase_of_firstLow {cols : BitVec 3} {c : Col} (h : firstLow cols = some c) (cfg : CfgRegs) (r : Row) :
    samplePhase cfg r cols = .scanRwait r (cfg.keyAt r c) := by
  rw [samplePhase, h]

theorem encode_sample (r : Row) : encode (.sample r) = 0x7000#16 ||| BitVec.ofNat 16 r.val :=
  opcode_append_row 0x7#4 r

theorem exec_sample (r : Row) (s : State) :
    exec (.sample r) s = .next { s with
      choices := s.choices.drop (bitsSampled s)
      draws := s.draws + (bitsSampled s - s.choices.length)
      phase := samplePhase s.cfg r s.colIn
      stepLog := s.stepLog ++ [.word (0x7000#16 ||| BitVec.ofNat 16 r.val)] } := by
  rw [exec, execSample, s.afterColIn_eq, ← encode_sample]
  rfl

/-- Settles O17: `exec_sample`, with the phase `samplePhase` gives for no low column and for a first one. -/
theorem samplePicksTheFirstLowColumn : Obligations.SamplePicksTheFirstLowColumn := by
  intro r s _
  rw [exec_sample]
  constructor
  · intro hhigh
    rw [hhigh, samplePhase_all_high]
  · intro c hlow hbelow
    rw [samplePhase_of_firstLow (firstLow_eq_some_iff.2 ⟨hlow, hbelow⟩), CfgRegs.keyAt]

/-! ### ROWREL -/

@[simp] theorem Phase.afterRowrel_scanRet (r : Row) (k : Byte) : (Phase.scanRet r k).afterRowrel = .key k := rfl

@[simp] theorem Phase.afterRowrel_scanNext (r : Row) : (Phase.scanNext r).afterRowrel = afterRow r := rfl

@[simp] theorem afterRow_last : afterRow 3 = .dispatch := rfl

theorem afterRow_of_succ {r q : Row} (h : q.val = r.val + 1) : afterRow r = .scanDrive q := by
  have hlt : r.val + 1 < 4 := h ▸ q.isLt
  have hq : q = ⟨r.val + 1, hlt⟩ := Fin.ext h
  rw [afterRow, dif_pos hlt, hq]

theorem encode_rowrel (r : Row) : encode (.rowrel r) = 0x5000#16 ||| BitVec.ofNat 16 r.val :=
  opcode_append_row 0x5#4 r

theorem exec_rowrel (r : Row) (s : State) :
    exec (.rowrel r) s = .next { s with
      rowOut := (s.driveRow r true).rowOut
      trace := s.trace ++ [.row r true]
      phase := s.phase.afterRowrel
      stepLog := s.stepLog ++ [.word (0x5000#16 ||| BitVec.ofNat 16 r.val)] } := by
  rw [← encode_rowrel]
  rfl

/-- Settles O20: `exec_rowrel`, with the phase after a found key, after a row without one, and after the last row. -/
theorem rowrelRestoresItsRow : Obligations.RowrelRestoresItsRow := by
  intro r s p hcases
  have hphase : s.phase.afterRowrel = p := by
    obtain ⟨k, hp, rfl⟩ | ⟨hp, q, hq, rfl⟩ | ⟨hp, rfl, rfl⟩ := hcases
    · rw [hp, Phase.afterRowrel_scanRet]
    · rw [hp, Phase.afterRowrel_scanNext, afterRow_of_succ hq]
    · rw [hp, Phase.afterRowrel_scanNext, afterRow_last]
  rw [exec_rowrel, hphase]
  exact ⟨_, rfl, fun q => s.rowLevel_driveRow r q true, rfl⟩

end Sys2Proof.Machine

/-! 43 R150, R151: what ACT and PINW do. Each writes its output pin and moves the SEQ on, one equation for the whole
next state; the event of the pin's write is the output trace's. -/

namespace Sys2Proof.Machine

/-! ### ACT -/

theorem encode_act (locked : Bool) : encode (.act locked) = if locked then 0x9001#16 else 0x9000#16 := by
  cases locked <;> rfl

theorem exec_act (locked : Bool) (s : State) :
    exec (.act locked) s = .next { s with
      pwmCmp := s.cfg.duty locked
      trace := s.trace ++ [.pwm (s.cfg.duty locked)]
      phase := s.phase.advance
      stepLog := s.stepLog ++ [.word (if locked then 0x9001#16 else 0x9000#16)] } := by
  rw [← encode_act]
  rfl

/-- Settles O21: `exec_act` in the SEQ phase that names it. -/
theorem actWritesTheDutyConstant : Obligations.ActWritesTheDutyConstant := by
  intro locked q nxt s hp
  rw [exec_act, hp, Phase.advance_seq, CfgRegs.duty]

/-! ### PINW -/

theorem encode_pinw_red (v : Bool) : encode (.pinw .red v) = if v then 0xA001#16 else 0xA000#16 := by
  cases v <;> rfl

theorem encode_pinw_green (v : Bool) : encode (.pinw .green v) = if v then 0xA003#16 else 0xA002#16 := by
  cases v <;> rfl

/-- 43 R151: beside the pin's own write PINW moves MAIN on and appends its word, whichever the pin. -/
theorem exec_pinw (pin : Pin) (v : Bool) (s : State) :
    exec (.pinw pin v) s = .next { s.writePin pin v with
      phase := s.phase.advance
      stepLog := s.stepLog ++ [.word (encode (.pinw pin v))] } := by
  cases pin <;> rfl

/-- Settles O22: `exec_pinw` in the SEQ phase that names it, for each pin. -/
theorem pinwWritesOneIndicator : Obligations.PinwWritesOneIndicator := by
  intro v q nxt s
  constructor
  · intro hp
    rw [exec_pinw, hp, Phase.advance_seq, encode_pinw_red, State.writePin]
  · intro hp
    rw [exec_pinw, hp, Phase.advance_seq, encode_pinw_green, State.writePin]

end Sys2Proof.Machine

/-! 44 R170, R173 to R177: what the lock state machine's µops do. The µops of a SEQ have one equation each for the whole
next state; DISP, BUFAPP and CMP have one equation for each case their rule tells apart. -/

namespace Sys2Proof.Machine

/-! ### BUFCLR, SETST and PCLR -/

theorem exec_bufclr (s : State) :
    exec .bufclr s = .next { s with
      len := 0#3, phase := s.phase.advance, stepLog := s.stepLog ++ [.word 0xB000#16] } := rfl

/-- Settles O23: `exec_bufclr` in the SEQ phase that names it. -/
theorem bufclrClearsTheCount : Obligations.BufclrClearsTheCount := by
  intro q nxt s hp
  rw [exec_bufclr, hp, Phase.advance_seq]

theorem encode_setst (st : LockCode) : encode (.setst st) = 0xE000#16 ||| st.setWidth 16 :=
  BitVec.append_def _ _

theorem exec_setst {st : LockCode} (hst : st ≠ LockCode.reserved) (s : State) :
    exec (.setst st) s = .next { s with
      ls := st
      phase := s.phase.advance
      stepLog := s.stepLog ++ [.word (0xE000#16 ||| st.setWidth 16)] } := by
  rw [exec, execSetst, if_neg hst, ← encode_setst]
  rfl

/-- Settles O26: `exec_setst` in the SEQ phase that names it. -/
theorem setstWritesTheLockState : Obligations.SetstWritesTheLockState := by
  intro st q nxt s hp hst
  rw [exec_setst hst, hp, Phase.advance_seq]

theorem exec_pclr (s : State) :
    exec .pclr s = .next { s with
      pend := false, phase := s.phase.advance, stepLog := s.stepLog ++ [.word 0xF000#16] } := rfl

/-- Settles O27: `exec_pclr` in the SEQ phase that names it. -/
theorem pclrConsumesTheEvent : Obligations.PclrConsumesTheEvent := by
  intro q nxt s hp
  rw [exec_pclr, hp, Phase.advance_seq]

/-! ### DISP -/

theorem exec_disp (s : State) : exec .disp s = .next (s.dispatch.logStep .disp) := rfl

theorem State.dispatch_of_idle {s : State} (hls : s.ls = LockCode.locked ∨ s.ls = LockCode.unlocked)
    (hpend : s.pend = false) : s.dispatch = { s with phase := .dispatch } := by
  obtain hls | hls := hls <;> simp [State.dispatch, hls, hpend]

theorem State.dispatch_of_locked_pend {s : State} (hls : s.ls = LockCode.locked) (hpend : s.pend = true) :
    s.dispatch = s.startSeq seqLB := by
  simp [State.dispatch, hls, hpend]

theorem State.dispatch_of_unlocked_pend {s : State} (hls : s.ls = LockCode.unlocked) (hpend : s.pend = true) :
    s.dispatch = s.startSeq seqUB := by
  simp [State.dispatch, hls, hpend]

/-- 44 R170: with BTN_IN_ENTRY discard a pending event is consumed before the scan. -/
theorem State.dispatch_of_entering {s : State} (hls : s.ls = LockCode.entering) :
    s.dispatch = { s with
      phase := if s.cfg.btn = .discard ∧ s.pend = true then .seq .pclr [] .scan else .scanDrive 0 } := by
  by_cases hdiscard : s.cfg.btn = .discard ∧ s.pend = true
  · simp [State.dispatch, hls, hdiscard]
  · simp [State.dispatch, hls, hdiscard]

theorem State.dispatch_of_reserved {s : State} (hls : s.ls = LockCode.reserved) :
    s.dispatch = s.raise FaultCode.badState 3 := by
  simp [State.dispatch, hls]

/-- Settles O14: one equation of `State.dispatch` for each case of R170; the order of T_LB's and of T_UB's SETIND is
the next drawn bit. -/
theorem dispChoosesTheWork : Obligations.DispChoosesTheWork := by
  refine ⟨rfl, fun s hp => ?_⟩
  rw [exec_disp]
  refine ⟨fun hls hpend => ?_, fun hls hpend => ?_, fun hls hpend => ?_, fun hls => ?_, fun hls => ?_⟩
  · rw [State.dispatch_of_idle hls hpend, ← hp]
    rfl
  · rw [State.dispatch_of_locked_pend hls hpend]
    exact ⟨s.drawAt 0, rfl⟩
  · rw [State.dispatch_of_unlocked_pend hls hpend]
    exact ⟨s.drawAt 0, rfl⟩
  · rw [State.dispatch_of_entering hls]
    rfl
  · rw [State.dispatch_of_reserved hls]
    exact ⟨_, rfl, rfl, rfl⟩

/-! ### BUFAPP -/

theorem exec_bufapp {k : Byte} (hk : k ≠ noKey) (s : State) :
    exec (.bufapp k) s = .next ((s.append k).logStep (.bufapp k)) := by
  rw [exec, execBufapp, if_neg hk]

theorem State.append_of_lt {s : State} (h : s.len.toNat < 4) (k : Byte) :
    s.append k = { s.bufStore s.len.toNat k with
      len := BitVec.ofNat 3 (s.len.toNat + 1)
      phase := if s.len.toNat + 1 < 4 then enqueue flash .dispatch else .compare } := by
  have hcount : BitVec.ofNat 3 (s.len.toNat + 1) = s.len + 1#3 := by bv_omega
  rw [State.append, State.bufWrite, if_pos h, hcount]

theorem State.append_of_full {s : State} (h : 4 ≤ s.len.toNat) (k : Byte) :
    s.append k = s.raise FaultCode.bufOverflow s.len.toNat := by
  rw [State.append, State.bufWrite, if_neg h.not_gt]

/-- Settles O24: `State.append_of_lt`, whose byte the buffer's read after write gives back, and
`State.append_of_full`. -/
theorem bufappAppendsOrOverflows : Obligations.BufappAppendsOrOverflows := by
  intro k s _ hk
  rw [exec_bufapp hk]
  constructor
  · intro hlen
    rw [State.append_of_lt hlen]
    refine ⟨_, rfl, s.bufRead_bufStore_same _ k, fun a ha => s.bufRead_bufStore_other _ a k ha, ?_⟩
    rw [← encode_bufapp]
    rfl
  · intro hlen
    rw [State.append_of_full hlen]
    exact ⟨_, rfl, rfl, rfl, rfl⟩

/-! ### CMP -/

/-- 44 R175: the comparison holds of a full buffer that is CFG_REF at every position, and of no other. -/
theorem State.codeMatches_iff (s : State) :
    s.codeMatches = true ↔ s.len.toNat = 4 ∧ ∀ i : Fin 4, s.bufRead i.val = s.cfg.refByte i.val := by
  have hfull : s.len = 4#3 ↔ s.len.toNat = 4 := BitVec.toNat_eq
  simp [State.codeMatches, hfull, Fin.forall_fin_succ]

theorem exec_cmp_of_matches {s : State} (h : s.codeMatches = true) :
    exec .cmp s = .next ((s.startSeq seqOk).logStep .cmp) := by
  rw [exec, execCmp, if_pos h]

theorem exec_cmp_of_not_matches {s : State} (h : ¬ s.codeMatches = true) :
    exec .cmp s = .next ((s.startSeq seqBad).logStep .cmp) := by
  rw [exec, execCmp, if_neg h]

/-- Settles O25: `State.codeMatches_iff` decides between T_OK and T_BAD; the order of their SETIND is the next drawn
bit. -/
theorem cmpComparesEveryPosition : Obligations.CmpComparesEveryPosition := by
  intro s _
  constructor
  · intro hcode
    exact ⟨s.drawAt 0, exec_cmp_of_matches (s.codeMatches_iff.2 hcode)⟩
  · intro hcode
    exact ⟨s.drawAt 0, exec_cmp_of_not_matches (mt s.codeMatches_iff.1 hcode)⟩

end Sys2Proof.Machine

/-! 30 R70 to R75: the round trip of µop words, read off `decode_encode` and `encode_of_decode`, and the words the
spec writes out. -/

namespace Sys2Proof

/-- Settles O1: `decode_encode`. -/
theorem decodeOfEncodeIsTheMicroOp : Obligations.DecodeOfEncodeIsTheMicroOp := fun _ => decode_encode

/-- Settles O2: `encode_of_decode`. -/
theorem encodeOfDecodeIsTheWord : Obligations.EncodeOfDecodeIsTheWord := fun _ _ => encode_of_decode

/-- Settles O4: the decoder evaluated on each written-out word. -/
theorem writtenOutWordsDecode : Obligations.WrittenOutWordsDecode :=
  ⟨rfl, rfl, rfl, rfl, rfl, rfl, rfl, rfl, rfl, rfl, rfl⟩

end Sys2Proof

/-! 10 R20, R39: the written-by column of each register, in one statement over every µop, and the frames that later
proofs read off it. -/

namespace Sys2Proof.Machine

/-- Settles O29: each µop compared with the columns that name it; DISP, BUFAPP and SETST in each of their branches. -/
theorem onlyTheListedMicroOpsWriteARegister : Obligations.OnlyTheListedMicroOpsWriteARegister := by
  intro i s t h
  cases i with
  | disp =>
    cases h
    obtain h | h | h | ⟨p, h⟩ := s.dispatch_cases <;> simp [h, Instr.isHandler]
  | bufapp k =>
    cases h
    split
    · simp [Instr.isHandler]
    · obtain h | ⟨-, h⟩ := s.append_cases k <;> simp [h, Instr.isHandler]
  | setst st =>
    cases h
    split <;> simp [Instr.isHandler, *]
  | rwait r =>
    cases h
    split <;> simp [Instr.isHandler]
  | pinw pin =>
    cases pin <;> cases h <;> simp [Instr.isHandler]
  | _ =>
    cases h
    simp [Instr.isHandler]

section

variable {i : Instr} {s t : State}

theorem exec_ls (hi : ∀ st, i ≠ .setst st) (h : exec i s = .next t) : t.ls = s.ls := by
  obtain ⟨hls, -⟩ := onlyTheListedMicroOpsWriteARegister i s t h
  by_contra hne
  obtain ⟨st, rfl⟩ := hls hne
  exact hi st rfl

theorem exec_len (hclr : i ≠ .bufclr) (happ : ∀ k, i ≠ .bufapp k) (h : exec i s = .next t) : t.len = s.len := by
  obtain ⟨-, hlen, -⟩ := onlyTheListedMicroOpsWriteARegister i s t h
  by_contra hne
  obtain rfl | ⟨k, rfl⟩ := hlen hne
  · exact hclr rfl
  · exact happ k rfl

theorem exec_buf (hi : ∀ k, i ≠ .bufapp k) (h : exec i s = .next t) : t.buf = s.buf := by
  obtain ⟨-, -, hbuf, -⟩ := onlyTheListedMicroOpsWriteARegister i s t h
  by_contra hne
  obtain ⟨k, rfl⟩ := hbuf hne
  exact hi k rfl

theorem exec_pend (hedge : i ≠ .edge) (hclr : i ≠ .pclr) (h : exec i s = .next t) : t.pend = s.pend := by
  obtain ⟨-, -, -, -, hpend, -⟩ := onlyTheListedMicroOpsWriteARegister i s t h
  by_contra hne
  exact (hpend hne).elim hedge hclr

theorem exec_rowOut (hdrv : ∀ r, i ≠ .rowdrv r) (hrel : ∀ r, i ≠ .rowrel r) (h : exec i s = .next t) :
    t.rowOut = s.rowOut := by
  obtain ⟨-, -, -, -, -, -, hrow, -⟩ := onlyTheListedMicroOpsWriteARegister i s t h
  by_contra hne
  obtain ⟨r, rfl | rfl⟩ := hrow hne
  · exact hdrv r rfl
  · exact hrel r rfl

theorem exec_pressed (h : exec i s = .next t) : t.pressed = s.pressed := by
  obtain ⟨-, -, -, -, -, -, -, -, -, -, -, -, -, hpressed, -⟩ := onlyTheListedMicroOpsWriteARegister i s t h
  exact hpressed

theorem exec_bootDraw (h : exec i s = .next t) : t.bootDraw = s.bootDraw := by
  obtain ⟨-, -, -, -, -, -, -, -, -, -, -, -, -, -, -, -, hboot⟩ := onlyTheListedMicroOpsWriteARegister i s t h
  exact hboot

/-! ### The code buffer's bytes -/

theorem State.bufRead_congr (hbuf : t.buf = s.buf) (hboot : t.bootDraw = s.bootDraw) (a : Nat) :
    t.bufRead a = s.bufRead a := by
  rw [State.bufRead, State.bufRead, hbuf, hboot]

/-- 44 R174: BUFAPP leaves the buffer alone, or lists its character at index `len`. -/
theorem exec_bufapp_buf {k : Byte} (h : exec (.bufapp k) s = .next t) :
    t.buf = s.buf ∨ k ≠ noKey ∧ s.len.toNat < 4 ∧ t.buf = Memory.write s.buf s.len.toNat k := by
  cases h
  split
  · exact .inl rfl
  next hk =>
    obtain happ | ⟨hlen, happ⟩ := s.append_cases k
    · exact .inl (by simp [happ])
    · exact .inr ⟨hk, hlen, by simp [happ]⟩

/-- Settles O30: `exec_buf`, and `exec_bufapp_buf` with the buffer's read of another index after a write. -/
theorem bufferBytesChangeOnlyWhereStored : Obligations.BufferBytesChangeOnlyWhereStored := by
  refine ⟨fun i s t a hi h => State.bufRead_congr (exec_buf hi h) (exec_bootDraw h) a, fun k s t a h hna => ?_⟩
  obtain hbuf | ⟨hk, hlen, hbuf⟩ := exec_bufapp_buf h
  · exact State.bufRead_congr hbuf (exec_bootDraw h) a
  · have ha : a ≠ s.len.toNat := fun ha => hna ⟨hk, hlen, ha⟩
    rw [State.bufRead, State.bufRead, hbuf, exec_bootDraw h, Memory.lookup_write_other _ _ _ _ ha]

end

/-! ### The output trace and the step log -/

/-- 10 R33, 30 R76: what a step does to a record, at most one entry added at its end. -/
def AtMostOneMore {α : Type} (old new : List α) : Prop := ∃ es, new = old ++ es ∧ es.length ≤ 1

@[simp] theorem AtMostOneMore.refl {α : Type} (l : List α) : AtMostOneMore l l := ⟨[], by simp, by simp⟩

@[simp] theorem AtMostOneMore.append_one {α : Type} (l : List α) (x : α) : AtMostOneMore l (l ++ [x]) :=
  ⟨[x], rfl, le_rfl⟩

/-- 10 R33, 30 R76 for one µop: an output, or a raised fault, is one event, and the step one word. -/
theorem exec_records {i : Instr} {s t : State} (h : exec i s = .next t) :
    AtMostOneMore s.trace t.trace ∧ AtMostOneMore s.stepLog t.stepLog := by
  cases i with
  | disp =>
    cases h
    obtain h | h | h | ⟨p, h⟩ := s.dispatch_cases <;> simp [h]
  | bufapp k =>
    cases h
    split
    · simp
    · obtain h | ⟨-, h⟩ := s.append_cases k <;> simp [h]
  | rwait | setst => cases h; split <;> simp
  | _ => cases h; simp

/-- Settles O31: `exec_records` for a µop; a raised illegal word is one event, and ENV's key action one entry. -/
theorem traceAndStepLogOnlyGrow : Obligations.TraceAndStepLogOnlyGrow := by
  intro s t hreset h
  change AtMostOneMore s.trace t.trace ∧ AtMostOneMore s.stepLog t.stepLog
  obtain ⟨i, -, -, h⟩ | ⟨w, -, -, -, rfl⟩ | ⟨k, -, rfl⟩ | ⟨k, -, rfl⟩ | ⟨hr, -⟩ := step_cases h
  · simpa using exec_records h
  · simp
  · simp
  · simp
  · exact absurd hr hreset

/-! ### The fault register -/

/-- 44 R170: the five cases of DISP, each with its condition and its effect. -/
theorem State.dispatch_split (s : State) :
    s.ls = LockCode.reserved ∧ s.dispatch = s.raise FaultCode.badState 3 ∨
    s.ls = LockCode.entering ∧ s.dispatch = { s with
      phase := if s.cfg.btn = .discard ∧ s.pend = true then .seq .pclr [] .scan else .scanDrive 0 } ∨
    (s.ls = LockCode.locked ∨ s.ls = LockCode.unlocked) ∧ s.pend = false ∧ s.dispatch = { s with phase := .dispatch } ∨
    s.ls = LockCode.locked ∧ s.pend = true ∧ s.dispatch = s.startSeq seqLB ∨
    s.ls = LockCode.unlocked ∧ s.pend = true ∧ s.dispatch = s.startSeq seqUB := by
  have hcodes : ∀ c : LockCode,
      c = LockCode.reserved ∨ c = LockCode.entering ∨ c = LockCode.locked ∨ c = LockCode.unlocked := by decide
  obtain hls | hls | hls | hls := hcodes s.ls
  · exact .inl ⟨hls, s.dispatch_of_reserved hls⟩
  · exact .inr (.inl ⟨hls, s.dispatch_of_entering hls⟩)
  · by_cases hpend : s.pend = true
    · exact .inr (.inr (.inr (.inl ⟨hls, hpend, s.dispatch_of_locked_pend hls hpend⟩)))
    · have hpend := Bool.eq_false_iff.2 hpend
      exact .inr (.inr (.inl ⟨.inl hls, hpend, s.dispatch_of_idle (.inl hls) hpend⟩))
  · by_cases hpend : s.pend = true
    · exact .inr (.inr (.inr (.inr ⟨hls, hpend, s.dispatch_of_unlocked_pend hls hpend⟩)))
    · have hpend := Bool.eq_false_iff.2 hpend
      exact .inr (.inr (.inl ⟨.inr hls, hpend, s.dispatch_of_idle (.inr hls) hpend⟩))

/-- 60 R200: the three ways a µop raises a fault; no code it writes is 0. -/
theorem exec_fault {i : Instr} {s t : State} (h : exec i s = .next t) :
    t.fault = s.fault ∨ t.fault ≠ 0#2 ∧
      (i = .disp ∧ s.ls = LockCode.reserved ∨
        (∃ k, i = .bufapp k ∧ (k = noKey ∨ 4 ≤ s.len.toNat)) ∨ i = .setst LockCode.reserved) := by
  cases i with
  | disp =>
    cases h
    obtain ⟨hls, h⟩ | ⟨-, h⟩ | ⟨-, -, h⟩ | ⟨-, -, h⟩ | ⟨-, -, h⟩ := s.dispatch_split
    · exact .inr ⟨by simp [h, FaultCode.badState], .inl ⟨rfl, hls⟩⟩
    all_goals simp [h]
  | bufapp k =>
    cases h
    by_cases hk : k = noKey
    · exact .inr ⟨by simp [hk], .inr (.inl ⟨k, rfl, .inl hk⟩)⟩
    by_cases hlen : s.len.toNat < 4
    · simp [hk, State.append_of_lt hlen]
    · have hfull : 4 ≤ s.len.toNat := not_lt.1 hlen
      exact .inr ⟨by simp [hk, State.append_of_full hfull, FaultCode.bufOverflow], .inr (.inl ⟨k, rfl, .inr hfull⟩)⟩
  | setst st =>
    cases h
    split <;> simp [*]
  | rwait => cases h; split <;> simp
  | _ => cases h; simp

/-- Settles O33: a µop leaves the register or writes a code of R200 (`exec_fault`), a raised illegal word writes 1, and
ENV's key actions leave it. -/
theorem faultIsSticky : Obligations.FaultIsSticky := by
  intro s t hreset h hs
  obtain ⟨i, -, -, h⟩ | ⟨w, -, -, -, rfl⟩ | ⟨k, -, rfl⟩ | ⟨k, -, rfl⟩ | ⟨hr, -⟩ := step_cases h
  · obtain hsame | ⟨hne, -⟩ := exec_fault h
    · rwa [hsame]
    · exact hne
  · simp
  · simpa using hs
  · simpa using hs
  · exact absurd hr hreset

/-! ### The lock state -/

theorem exec_setst_ls {i : Instr} {s t : State} (h : exec i s = .next t) (hls : t.ls ≠ s.ls) : i = .setst t.ls := by
  obtain ⟨hwritten, -⟩ := onlyTheListedMicroOpsWriteARegister i s t h
  obtain ⟨st, rfl⟩ := hwritten hls
  cases h
  split at hls
  · exact absurd rfl hls
  next hst => simp [hst]

theorem exec_handler_ls {i : Instr} {s t : State} (hi : i.isHandler = true) (h : exec i s = .next t) : t.ls = s.ls :=
  exec_ls (fun st he => by simp [he, Instr.isHandler] at hi) h

/-- Settles O34: of the µops only SETST writes `ls`, a handed word is its µop's only word (`encode_of_decode`), and no
handler or key action writes it. -/
theorem lockStateChangesOnlyBySetst : Obligations.LockStateChangesOnlyBySetst := by
  intro s t h hls
  unfold step at h
  cases hn : s.nextTurn with
  | agent a =>
    rw [hn] at h
    cases a with
    | reset => exact .inl rfl
    | main => exact .inr ⟨exec_setst_ls h hls, .inl rfl⟩
    | tick => exact absurd (exec_handler_ls (i := .tick) rfl h) hls
    | edge => exact absurd (exec_handler_ls (i := .edge) rfl h) hls
    | press k | release k => cases h; exact absurd rfl hls
  | handed w =>
    rw [hn, takeTurn, runWord] at h
    split at h
    · cases h
      exact absurd rfl hls
    next i hd =>
      split at h
      next hi =>
        rw [Bool.or_eq_true, beq_iff_eq] at hi
        obtain hi | hi := hi
        · exact absurd (exec_handler_ls hi h) hls
        · have hset : i = .setst t.ls := exec_setst_ls h hls
          obtain ⟨-, hw⟩ := encode_of_decode hd
          exact .inr ⟨hi.trans hset, .inr (by rw [← hw, hset])⟩
      · cases h

end Sys2Proof.Machine

/-! The invariants of the block. MAIN's registers change only in MAIN's turns and at a reset, so an invariant that
speaks of them alone is kept by every step once the µop the phase names keeps it (`step_keeps_of_main`). -/

namespace Sys2Proof.Machine

/-! ### MAIN's registers -/

/-- 10 R20, R39: the registers no handler, key action or raised illegal word writes have the same values. -/
structure SameMainRegs (s t : State) : Prop where
  ls : t.ls = s.ls
  buf : t.buf = s.buf
  len : t.len = s.len
  phase : t.phase = s.phase
  rowOut : t.rowOut = s.rowOut
  ledRed : t.ledRed = s.ledRed
  ledGreen : t.ledGreen = s.ledGreen
  pwmCmp : t.pwmCmp = s.pwmCmp
  cfg : t.cfg = s.cfg
  bootDraw : t.bootDraw = s.bootDraw

theorem SameMainRegs.trans {s t u : State} (h : SameMainRegs s t) (h' : SameMainRegs t u) : SameMainRegs s u where
  ls := h'.ls.trans h.ls
  buf := h'.buf.trans h.buf
  len := h'.len.trans h.len
  phase := h'.phase.trans h.phase
  rowOut := h'.rowOut.trans h.rowOut
  ledRed := h'.ledRed.trans h.ledRed
  ledGreen := h'.ledGreen.trans h.ledGreen
  pwmCmp := h'.pwmCmp.trans h.pwmCmp
  cfg := h'.cfg.trans h.cfg
  bootDraw := h'.bootDraw.trans h.bootDraw

theorem State.popTurn_sameMainRegs (s : State) : SameMainRegs s s.popTurn := by constructor <;> rfl

theorem State.raiseIllegal_sameMainRegs (s : State) (w : Word) : SameMainRegs s (s.raiseIllegal w) := by
  constructor <;> rfl

theorem State.pressKey_sameMainRegs (s : State) (k : Key) : SameMainRegs s (s.pressKey k) := by constructor <;> rfl

theorem State.releaseKey_sameMainRegs (s : State) (k : Key) : SameMainRegs s (s.releaseKey k) := by
  constructor <;> rfl

theorem exec_handler_sameMainRegs {i : Instr} {s t : State} (hi : i.isHandler = true) (h : exec i s = .next t) :
    SameMainRegs s t := by
  cases i with
  | tick | edge => cases h; constructor <;> simp
  | _ => cases hi

/-- 10 R28, R35: a turn of another agent than MAIN leaves MAIN's registers, but for a reset. -/
theorem perform_sameMainRegs {a : Action} {s t : State} (hm : a ≠ .main) (hr : a ≠ .reset)
    (h : perform a s = .next t) : SameMainRegs s t := by
  cases a with
  | main => exact absurd rfl hm
  | reset => exact absurd rfl hr
  | tick => exact exec_handler_sameMainRegs (i := .tick) rfl h
  | edge => exact exec_handler_sameMainRegs (i := .edge) rfl h
  | press k => cases h; exact s.pressKey_sameMainRegs k
  | release k => cases h; exact s.releaseKey_sameMainRegs k

/-- An invariant of MAIN's registers is kept by every step if the µop the phase names and a reset keep it. -/
theorem step_keeps_of_main {P : State → Prop} (hsame : ∀ {s t}, SameMainRegs s t → P s → P t)
    (hreset : ∀ {s}, P s → P s.powerCycle) (hmain : ∀ {s t}, P s → exec s.phase.instr s = .next t → P t)
    {s t : State} (hs : P s) (h : step s = .next t) : P t := by
  have hpop : P s.popTurn := hsame s.popTurn_sameMainRegs hs
  obtain ⟨i, hi, -, h⟩ | ⟨w, e, -, -, rfl⟩ | ⟨k, -, rfl⟩ | ⟨k, -, rfl⟩ | ⟨-, rfl⟩ := step_cases h
  · obtain rfl | hi := hi
    · exact hmain hpop h
    · exact hsame (exec_handler_sameMainRegs hi h) hpop
  · exact hsame (State.raiseIllegal_sameMainRegs _ w) hpop
  · exact hsame (State.pressKey_sameMainRegs _ k) hpop
  · exact hsame (State.releaseKey_sameMainRegs _ k) hpop
  · exact hreset hpop

/-! ### Where MAIN's µops lead -/

/-- 10 R27, R28: the phases MAIN's step can lead to from each phase. It stays where it is held (42 R128) or raises a
fault (60 R200). -/
inductive Phase.Next (cfg : CfgRegs) : Phase → Phase → Prop
  | stay (p : Phase) : Next cfg p p
  | ofDispatch (q : List SeqOp) (nxt : SeqNext) : Next cfg .dispatch (enqueue q nxt)
  | ofDrive (r : Row) : Next cfg (.scanDrive r) (.scanSettle r)
  | ofSettle (r : Row) : Next cfg (.scanSettle r) (.scanSample r)
  | ofSampleHigh (r : Row) : Next cfg (.scanSample r) (.scanNext r)
  | ofSampleLow (r : Row) (c : Col) : Next cfg (.scanSample r) (.scanRwait r (cfg.keyAt r c))
  | ofNext (r : Row) : Next cfg (.scanNext r) (afterRow r)
  | ofRwait (r : Row) (k : Byte) : Next cfg (.scanRwait r k) (.scanRet r k)
  | ofRet (r : Row) (k : Byte) : Next cfg (.scanRet r k) (.key k)
  | ofKey (k : Byte) : Next cfg (.key k) (enqueue flash .dispatch)
  | ofLastKey (k : Byte) : Next cfg (.key k) .compare
  | ofCompare (q : List SeqOp) : Next cfg .compare (enqueue q .dispatch)
  | ofSeq (u : SeqOp) (q : List SeqOp) (nxt : SeqNext) : Next cfg (.seq u q nxt) (enqueue q nxt)

theorem State.dispatch_phase_next {s : State} (hp : s.phase = .dispatch) :
    Phase.Next s.cfg .dispatch s.dispatch.phase := by
  obtain ⟨-, h⟩ | ⟨-, h⟩ | ⟨-, -, h⟩ | ⟨-, -, h⟩ | ⟨-, -, h⟩ := s.dispatch_split <;> rw [h]
  · rw [State.raise_phase, hp]
    exact .stay _
  · by_cases hd : s.cfg.btn = .discard ∧ s.pend = true
    · simpa [hd] using Phase.Next.ofDispatch (cfg := s.cfg) [.pclr] .scan
    · simpa [hd] using Phase.Next.ofDispatch (cfg := s.cfg) [] .scan
  · exact .stay _
  · rw [State.startSeq_phase]
    exact .ofDispatch _ _
  · rw [State.startSeq_phase]
    exact .ofDispatch _ _

theorem samplePhase_next (cfg : CfgRegs) (r : Row) (cols : BitVec 3) :
    Phase.Next cfg (.scanSample r) (samplePhase cfg r cols) := by
  unfold samplePhase
  split
  · exact .ofSampleHigh r
  next c _ => exact .ofSampleLow r c

theorem exec_rwait_phase_next {r : Row} {k : Byte} {s t : State} (hp : s.phase = .scanRwait r k)
    (h : exec (.rwait r) s = .next t) : Phase.Next s.cfg (.scanRwait r k) t.phase := by
  cases h
  split
  · simpa [hp, Phase.afterRwait] using Phase.Next.ofRwait (cfg := s.cfg) r k
  · simpa [hp] using Phase.Next.stay (cfg := s.cfg) (.scanRwait r k)

theorem exec_bufapp_phase_next {k : Byte} {s t : State} (hp : s.phase = .key k) (h : exec (.bufapp k) s = .next t) :
    Phase.Next s.cfg (.key k) t.phase := by
  have stay {u : State} (hu : u.phase = s.phase) : Phase.Next s.cfg (.key k) u.phase := by
    rw [hu, hp]
    exact .stay _
  cases h
  split
  · exact stay rfl
  · obtain h | ⟨-, h⟩ := s.append_cases k
    · exact stay (by simp [h])
    · simp only [h, State.logStep_phase]
      split
      · exact .ofKey k
      · exact .ofLastKey k

theorem exec_seqOp_phase_next {u : SeqOp} {q : List SeqOp} {nxt : SeqNext} {s t : State}
    (hp : s.phase = .seq u q nxt) (h : exec u.instr s = .next t) : Phase.Next s.cfg (.seq u q nxt) t.phase := by
  by_cases hu : u = .setst LockCode.reserved
  · subst hu
    cases h
    simpa [hp] using Phase.Next.stay (cfg := s.cfg) (.seq _ q nxt)
  · rw [exec_seqOp_phase hp hu h]
    exact .ofSeq u q nxt

theorem exec_main_phase_next {s t : State} (h : exec s.phase.instr s = .next t) :
    Phase.Next s.cfg s.phase t.phase := by
  cases hp : s.phase with
  | dispatch => rw [hp] at h; cases h; exact State.dispatch_phase_next hp
  | scanDrive r => rw [hp] at h; cases h; exact .ofDrive r
  | scanSettle r => rw [hp] at h; cases h; simpa [hp] using Phase.Next.ofSettle (cfg := s.cfg) r
  | scanSample r => rw [hp] at h; cases h; exact samplePhase_next s.cfg r s.colIn
  | scanNext r => rw [hp] at h; cases h; simpa [hp] using Phase.Next.ofNext (cfg := s.cfg) r
  | scanRwait r k => rw [hp] at h; exact exec_rwait_phase_next hp h
  | scanRet r k => rw [hp] at h; cases h; simpa [hp] using Phase.Next.ofRet (cfg := s.cfg) r k
  | key k => rw [hp] at h; exact exec_bufapp_phase_next hp h
  | compare => rw [hp] at h; cases h; exact .ofCompare _
  | seq u q nxt => rw [hp] at h; exact exec_seqOp_phase_next hp h

/-! ### The row lines -/

@[simp] theorem SeqOp.instr_ne_rowdrv (u : SeqOp) (r : Row) : u.instr ≠ .rowdrv r := by cases u <;> simp [SeqOp.instr]

@[simp] theorem SeqOp.instr_ne_rowrel (u : SeqOp) (r : Row) : u.instr ≠ .rowrel r := by cases u <;> simp [SeqOp.instr]

theorem afterRow_cases (r : Row) : afterRow r = .dispatch ∨ ∃ q, afterRow r = .scanDrive q := by
  unfold afterRow
  split
  · exact .inr ⟨_, rfl⟩
  · exact .inl rfl

@[simp] theorem Phase.rowOut_afterRow (r : Row) : (afterRow r).rowOut = 0b1111#4 := by
  obtain h | ⟨q, h⟩ := afterRow_cases r <;> rw [h] <;> rfl

/-- 10 R29: only the steps of ROWDRV and ROWREL move MAIN between phases of different row levels. -/
theorem Phase.Next.rowOut_eq {cfg : CfgRegs} {p q : Phase} (h : Phase.Next cfg p q)
    (hdrv : ∀ r, p.instr ≠ .rowdrv r) (hrel : ∀ r, p.instr ≠ .rowrel r) : q.rowOut = p.rowOut := by
  cases h with
  | ofDrive r => exact absurd rfl (hdrv r)
  | ofNext r | ofRet r => exact absurd rfl (hrel r)
  | _ => simp

/-- 10 R29 along MAIN's µop: ROWDRV pulls its row down, ROWREL lets it up again, and no other µop touches the lines or
leaves the phases that go with them. -/
theorem exec_main_rowsMatchPhase {s t : State} (hs : RowsMatchPhase s) (h : exec s.phase.instr s = .next t) :
    RowsMatchPhase t := by
  have kept (hdrv : ∀ r, s.phase.instr ≠ .rowdrv r) (hrel : ∀ r, s.phase.instr ≠ .rowrel r) : RowsMatchPhase t :=
    (exec_rowOut hdrv hrel h).trans (hs.trans ((exec_main_phase_next h).rowOut_eq hdrv hrel).symm)
  cases hp : s.phase with
  | scanDrive r =>
    rw [hp, Phase.instr, exec_rowdrv] at h
    cases h
    simp [RowsMatchPhase, hs.trans (congrArg _ hp), rowMask_drive_release]
  | scanNext r =>
    rw [hp, Phase.instr, exec_rowrel] at h
    cases h
    simp [RowsMatchPhase, hs.trans (congrArg _ hp), hp]
  | scanRet r k =>
    rw [hp, Phase.instr, exec_rowrel] at h
    cases h
    simp [RowsMatchPhase, hs.trans (congrArg _ hp), hp]
  | _ => exact kept (by simp [hp, Phase.instr]) (by simp [hp, Phase.instr])

theorem SameMainRegs.rowsMatchPhase {s t : State} (h : SameMainRegs s t) (hs : RowsMatchPhase s) :
    RowsMatchPhase t := by
  rw [RowsMatchPhase, h.rowOut, h.phase]
  exact hs

/-- Settles O36: `exec_main_rowsMatchPhase` for MAIN's µop; a reset leaves all rows high at DISPATCH. -/
theorem stepKeepsRowsMatchPhase : Obligations.StepKeepsRowsMatchPhase := fun _ _ =>
  step_keeps_of_main SameMainRegs.rowsMatchPhase (fun _ => rfl) exec_main_rowsMatchPhase

/-! ### The buffer -/

theorem SameMainRegs.bufferMatchesPhase {s t : State} (h : SameMainRegs s t) (hs : BufferMatchesPhase s) :
    BufferMatchesPhase t := by
  rw [BufferMatchesPhase, h.len, h.phase, h.ls]
  exact hs

theorem scanReady_iff {ls : LockCode} {len : BitVec 3} :
    scanReady ls len = true ↔ ls = LockCode.entering ∧ len.toNat ≤ 3 := by
  simp [scanReady]

theorem dispatchReady_iff {ls : LockCode} {len : BitVec 3} :
    dispatchReady ls len = true ↔
      scanReady ls len = true ∨ (ls = LockCode.locked ∨ ls = LockCode.unlocked) ∧ len = 0#3 := by
  simp [dispatchReady, scanReady]

theorem len_ne_four {len : BitVec 3} (h : len.toNat ≤ 3) : len ≠ 4#3 := by
  rintro rfl
  simp at h

/-- 44 R181: what the scan asks of `ls` and `len` is what DISPATCH asks in EnteringCode, so it does for both. -/
theorem bufferMatchesPhase_of_scanReady {s : State} (h : scanReady s.ls s.len = true) (hcmp : s.phase ≠ .compare)
    (hseq : ∀ u q nxt, s.phase ≠ .seq u q nxt) : BufferMatchesPhase s := by
  refine ⟨(scanReady_iff.1 h).2.trans (by decide), ?_⟩
  cases hp : s.phase with
  | dispatch => exact dispatchReady_iff.2 (.inl h)
  | compare => exact absurd hp hcmp
  | seq u q nxt => exact absurd hp (hseq u q nxt)
  | _ => exact h

theorem bufferMatchesPhase_of_enqueue {s : State} {q : List SeqOp} {nxt : SeqNext} (hp : s.phase = enqueue q nxt)
    (hlen : s.len.toNat ≤ 4) (hready : queueReady s.ls s.len q nxt = true)
    (hfull : s.len = 4#3 → s.ls = LockCode.entering ∧ nxt = .dispatch ∧ OutcomeTail q ∧ .bufclr ∈ q) :
    BufferMatchesPhase s := by
  refine ⟨hlen, ?_⟩
  rw [hp]
  cases q with
  | nil => cases nxt <;> exact hready
  | cons u q => exact ⟨hready, hfull⟩

/-! The four transitions lead to values of `ls` and `len` that DISPATCH is ready for, from whatever values. -/

section

variable (ls : LockCode) (len : BitVec 3) (redFirst : Bool)

theorem queueReady_seqLB : queueReady ls len (seqLB redFirst) .dispatch = true := by cases redFirst <;> rfl
theorem queueReady_seqUB : queueReady ls len (seqUB redFirst) .dispatch = true := by cases redFirst <;> rfl
theorem queueReady_seqOk : queueReady ls len (seqOk redFirst) .dispatch = true := by cases redFirst <;> rfl
theorem queueReady_seqBad : queueReady ls len (seqBad redFirst) .dispatch = true := by cases redFirst <;> rfl

end

/-- 44 R170 for the buffer: a button transition starts from an empty buffer, a scan from at most three keys. -/
theorem exec_disp_bufferMatchesPhase {s t : State} (hready : dispatchReady s.ls s.len = true)
    (h : exec .disp s = .next t) : BufferMatchesPhase t := by
  have hls : t.ls = s.ls := exec_ls (by simp) h
  have hlen : t.len = s.len := exec_len (by simp) (by simp) h
  have hphase : t.phase = s.dispatch.phase := by cases h; rfl
  have button (hl : s.ls = LockCode.locked ∨ s.ls = LockCode.unlocked) : t.len = 0#3 := by
    obtain hr | ⟨-, hr⟩ := dispatchReady_iff.1 hready
    · obtain ⟨he, -⟩ := scanReady_iff.1 hr
      simp +decide [he] at hl
    · exact hlen.trans hr
  obtain ⟨hl, -⟩ | ⟨hl, hd⟩ | ⟨hl, -, hd⟩ | ⟨hl, -, hd⟩ | ⟨hl, -, hd⟩ := s.dispatch_split
  · simp +decide [dispatchReady, hl] at hready
  · have hscan : scanReady t.ls t.len = true := by
      simpa +decide [hl, hls, hlen, dispatchReady, scanReady] using hready
    rw [hd] at hphase
    by_cases hdiscard : s.cfg.btn = .discard ∧ s.pend = true
    · have hfew := (scanReady_iff.1 hscan).2
      rw [if_pos hdiscard] at hphase
      exact bufferMatchesPhase_of_enqueue (q := [.pclr]) hphase (hfew.trans (by decide)) hscan
        fun hfull => absurd hfull (len_ne_four hfew)
    · rw [if_neg hdiscard] at hphase
      exact bufferMatchesPhase_of_scanReady hscan (by simp [hphase]) (by simp [hphase])
  · have hempty := button hl
    rw [hd] at hphase
    refine bufferMatchesPhase_of_enqueue (q := []) (nxt := .dispatch) hphase (by simp [hempty]) ?_ (by simp [hempty])
    rwa [queueReady, hls, hlen]
  · have hempty := button (.inl hl)
    rw [hd, State.startSeq_phase] at hphase
    exact bufferMatchesPhase_of_enqueue hphase (by simp [hempty]) (queueReady_seqLB _ _ _) (by simp [hempty])
  · have hempty := button (.inr hl)
    rw [hd, State.startSeq_phase] at hphase
    exact bufferMatchesPhase_of_enqueue hphase (by simp [hempty]) (queueReady_seqUB _ _ _) (by simp [hempty])

/-- 44 R174 for the buffer: the fourth key goes to COMPARE, an earlier one back to DISPATCH by the flash. -/
theorem exec_bufapp_bufferMatchesPhase {k : Byte} {s t : State} (hready : scanReady s.ls s.len = true)
    (hp : s.phase = .key k) (h : exec (.bufapp k) s = .next t) : BufferMatchesPhase t := by
  obtain ⟨hls, hfew⟩ := scanReady_iff.1 hready
  have hlt : s.len.toNat < 4 := by omega
  have hcount : (BitVec.ofNat 3 (s.len.toNat + 1)).toNat = s.len.toNat + 1 := by
    rw [BitVec.toNat_ofNat]
    omega
  by_cases hk : k = noKey
  · cases h
    rw [if_pos hk]
    exact bufferMatchesPhase_of_scanReady hready (by simp [hp]) (by simp [hp])
  rw [exec_bufapp hk, State.append_of_lt hlt] at h
  cases h
  by_cases hmore : s.len.toNat + 1 < 4
  · refine bufferMatchesPhase_of_enqueue (if_pos hmore) (hcount.trans_le hmore.le) ?_ ?_
    · exact dispatchReady_iff.2 (.inl (scanReady_iff.2 ⟨hls, hcount.trans_le (Nat.le_of_lt_succ hmore)⟩))
    · intro hfull
      exact absurd hfull (len_ne_four (hcount.trans_le (Nat.le_of_lt_succ hmore)))
  · have hfour : s.len.toNat + 1 = 4 := by omega
    refine ⟨hcount.trans_le hfour.le, ?_⟩
    simp [hls, hfour]

/-- 44 R175 for the buffer: a full buffer goes into T_OK or T_BAD with its BUFCLR still to come. -/
theorem exec_cmp_bufferMatchesPhase {s t : State} (hls : s.ls = LockCode.entering) (hfull : s.len = 4#3)
    (h : exec .cmp s = .next t) : BufferMatchesPhase t := by
  have hls' : t.ls = LockCode.entering := (exec_ls (by simp) h).trans hls
  have hlen : t.len = 4#3 := (exec_len (by simp) (by simp) h).trans hfull
  by_cases hcode : s.codeMatches = true
  · rw [exec_cmp_of_matches hcode] at h
    cases h
    refine bufferMatchesPhase_of_enqueue rfl (by simp [hfull]) (queueReady_seqOk _ _ _) fun _ =>
      ⟨hls, rfl, ⟨_, .inl List.suffix_rfl⟩, ?_⟩
    simp [seqOk]
  · rw [exec_cmp_of_not_matches hcode] at h
    cases h
    refine bufferMatchesPhase_of_enqueue rfl (by simp [hfull]) (queueReady_seqBad _ _ _) fun _ =>
      ⟨hls, rfl, ⟨_, .inr List.suffix_rfl⟩, ?_⟩
    simp [seqBad]

theorem OutcomeTail.tail {u : SeqOp} {q : List SeqOp} (h : OutcomeTail (u :: q)) : OutcomeTail q := by
  obtain ⟨b, h | h⟩ := h
  · exact ⟨b, .inl ((List.suffix_cons u q).trans h)⟩
  · exact ⟨b, .inr ((List.suffix_cons u q).trans h)⟩

/-- 44 R178, R179: T_OK and T_BAD write `ls` after their BUFCLR. -/
theorem OutcomeTail.head_ne_setst {u : SeqOp} {q : List SeqOp} (h : OutcomeTail (u :: q)) (hq : .bufclr ∈ q)
    (st : LockCode) : u ≠ .setst st := by
  rintro rfl
  obtain ⟨b, h | h⟩ := h <;> cases b <;> simp_all [seqOk, seqBad, setind, List.suffix_cons_iff]

theorem queueReady_head_ne_reserved {ls : LockCode} {len : BitVec 3} {u : SeqOp} {q : List SeqOp} {nxt : SeqNext}
    (h : queueReady ls len (u :: q) nxt = true) : u ≠ .setst LockCode.reserved := by
  rintro rfl
  simp [queueReady] at h

/-- The head µop of a queue takes `ls` and `len` to values the rest of it is ready from. -/
theorem exec_seqOp_queueReady {u : SeqOp} {q : List SeqOp} {nxt : SeqNext} {s t : State}
    (hready : queueReady s.ls s.len (u :: q) nxt = true) (h : exec u.instr s = .next t) :
    queueReady t.ls t.len q nxt = true := by
  cases u with
  | setst st =>
    simp only [queueReady, Bool.and_eq_true, bne_iff_ne] at hready
    obtain ⟨hst, hready⟩ := hready
    rw [SeqOp.instr, exec_setst hst] at h
    cases h
    exact hready
  | pinw pin => cases h; simpa [queueReady] using hready
  | _ => cases h; exact hready

theorem exec_seqOp_len {u : SeqOp} {s t : State} (h : exec u.instr s = .next t) :
    u = .bufclr ∧ t.len = 0#3 ∨ u ≠ .bufclr ∧ t.len = s.len := by
  cases u with
  | bufclr => cases h; exact .inl ⟨rfl, rfl⟩
  | _ => exact .inr ⟨by simp, exec_len (by simp [SeqOp.instr]) (by simp [SeqOp.instr]) h⟩

theorem exec_seqOp_ls {u : SeqOp} {s t : State} (hu : ∀ st, u ≠ .setst st) (h : exec u.instr s = .next t) :
    t.ls = s.ls := by
  refine exec_ls (fun st => ?_) h
  cases u with
  | setst st' => exact absurd rfl (hu st')
  | _ => simp [SeqOp.instr]

/-- 44 R181 along a SEQ: until its BUFCLR a full buffer stays full, and `ls` is not written. -/
theorem exec_seqOp_bufferMatchesPhase {u : SeqOp} {q : List SeqOp} {nxt : SeqNext} {s t : State}
    (hp : s.phase = .seq u q nxt) (hlen : s.len.toNat ≤ 4) (hready : queueReady s.ls s.len (u :: q) nxt = true)
    (hfull : s.len = 4#3 → s.ls = LockCode.entering ∧ nxt = .dispatch ∧ OutcomeTail (u :: q) ∧ .bufclr ∈ u :: q)
    (h : exec u.instr s = .next t) : BufferMatchesPhase t := by
  have hphase : t.phase = enqueue q nxt := exec_seqOp_phase hp (queueReady_head_ne_reserved hready) h
  obtain ⟨-, hempty⟩ | ⟨hclr, hsame⟩ := exec_seqOp_len h
  · exact bufferMatchesPhase_of_enqueue hphase (by simp [hempty]) (exec_seqOp_queueReady hready h) (by simp [hempty])
  · refine bufferMatchesPhase_of_enqueue hphase (hsame ▸ hlen) (exec_seqOp_queueReady hready h) fun hfour => ?_
    obtain ⟨hls, hnxt, htail, hmem⟩ := hfull (hsame ▸ hfour)
    have hq : .bufclr ∈ q := (List.mem_cons.1 hmem).resolve_left hclr.symm
    exact ⟨(exec_seqOp_ls (htail.head_ne_setst hq) h).trans hls, hnxt, htail.tail, hq⟩

/-- 42 R121: the phases of the scan lead to one another, to DISPATCH and to KEY. -/
theorem Phase.Next.not_compare_not_seq {cfg : CfgRegs} {p q : Phase} (h : Phase.Next cfg p q)
    (hp : ∀ k, p ≠ .key k) (hd : p ≠ .dispatch) (hcmp : p ≠ .compare) (hseq : ∀ u q nxt, p ≠ .seq u q nxt) :
    q ≠ .compare ∧ ∀ u l nxt, q ≠ .seq u l nxt := by
  cases h with
  | stay => exact ⟨hcmp, hseq⟩
  | ofDispatch => exact absurd rfl hd
  | ofKey k | ofLastKey k => exact absurd rfl (hp k)
  | ofCompare => exact absurd rfl hcmp
  | ofSeq u q nxt => exact absurd rfl (hseq u q nxt)
  | ofNext r => obtain h | ⟨q, h⟩ := afterRow_cases r <;> simp [h]
  | _ => simp

theorem exec_main_bufferMatchesPhase {s t : State} (hs : BufferMatchesPhase s) (h : exec s.phase.instr s = .next t) :
    BufferMatchesPhase t := by
  obtain ⟨hlen, hphase⟩ := hs
  have hnext := exec_main_phase_next h
  cases hp : s.phase with
  | dispatch => rw [hp] at h hphase; exact exec_disp_bufferMatchesPhase hphase h
  | key k => rw [hp] at h hphase; exact exec_bufapp_bufferMatchesPhase hphase hp h
  | compare =>
    rw [hp] at h hphase
    obtain ⟨hls, hfull⟩ := hphase
    exact exec_cmp_bufferMatchesPhase hls hfull h
  | seq u q nxt =>
    rw [hp] at h hphase
    obtain ⟨hready, hfull⟩ := hphase
    exact exec_seqOp_bufferMatchesPhase hp hlen hready hfull h
  | _ =>
    rw [hp] at h hphase hnext
    obtain ⟨hcmp, hseq⟩ := hnext.not_compare_not_seq (by simp) (by simp) (by simp) (by simp)
    refine bufferMatchesPhase_of_scanReady ?_ hcmp hseq
    rwa [exec_ls (by simp [Phase.instr]) h, exec_len (by simp [Phase.instr]) (by simp [Phase.instr]) h]

/-- Settles O37: `exec_main_bufferMatchesPhase` for MAIN's µop; a reset leaves an empty buffer in Locked. -/
theorem stepKeepsBufferMatchesPhase : Obligations.StepKeepsBufferMatchesPhase := fun _ _ =>
  step_keeps_of_main SameMainRegs.bufferMatchesPhase (fun _ => ⟨Nat.zero_le 4, rfl⟩) exec_main_bufferMatchesPhase

end Sys2Proof.Machine

/-! The rest of the invariants: no fault from a legal configuration, the guard bound, the canonical forms, and the
written bytes. -/

namespace Sys2Proof.Machine

/-! ### The held key, and no fault -/

theorem SameMainRegs.heldKeyIsAKey {s t : State} (h : SameMainRegs s t) (hs : HeldKeyIsAKey s) : HeldKeyIsAKey t := by
  rw [HeldKeyIsAKey, h.phase]
  exact hs

/-- 30 R79, 10 R36: a key enters MAIN's phase from the KEYMAP, which holds no NOKEY, and is handed on. -/
theorem exec_main_heldKeyIsAKey {s t : State} (hc : s.cfg.Legal) (hs : HeldKeyIsAKey s)
    (h : exec s.phase.instr s = .next t) : HeldKeyIsAKey t := by
  have hnext := exec_main_phase_next h
  have ofEnqueue (q : List SeqOp) (nxt : SeqNext) (hq : t.phase = enqueue q nxt) : HeldKeyIsAKey t := by
    rw [HeldKeyIsAKey, hq]
    cases q <;> cases nxt <;> trivial
  unfold HeldKeyIsAKey at hs ofEnqueue ⊢
  generalize s.phase = p at hnext hs
  generalize t.phase = q at hnext ofEnqueue
  cases hnext with
  | stay | ofRwait | ofRet => exact hs
  | ofSampleLow r c => exact hc.keyNotNoKey r c
  | ofDispatch q nxt | ofSeq _ q nxt => exact ofEnqueue q nxt rfl
  | ofCompare q => exact ofEnqueue q .dispatch rfl
  | ofNext r => obtain h | ⟨q, h⟩ := afterRow_cases r <;> simp [h]
  | _ => trivial

theorem step_keeps_heldKeyIsAKey {s t : State} (hc : s.cfg.Legal) (hs : HeldKeyIsAKey s) (h : step s = .next t) :
    HeldKeyIsAKey t :=
  (step_keeps_of_main (P := fun s => s.cfg.Legal ∧ HeldKeyIsAKey s)
    (fun hsame ⟨hc, hs⟩ => ⟨hsame.cfg ▸ hc, hsame.heldKeyIsAKey hs⟩) (fun ⟨hc, _⟩ => ⟨hc, trivial⟩)
    (fun ⟨hc, hs⟩ h => ⟨exec_cfg h ▸ hc, exec_main_heldKeyIsAKey hc hs h⟩) ⟨hc, hs⟩ h).2

theorem Phase.eq_dispatch_of_instr {p : Phase} (h : p.instr = .disp) : p = .dispatch := by
  cases p with
  | dispatch => rfl
  | seq u => cases u <;> cases h
  | _ => cases h

theorem Phase.eq_key_of_instr {p : Phase} {k : Byte} (h : p.instr = .bufapp k) : p = .key k := by
  cases p with
  | key => cases h; rfl
  | seq u => cases u <;> cases h
  | _ => cases h

theorem Phase.eq_seq_of_instr {p : Phase} {st : LockCode} (h : p.instr = .setst st) :
    ∃ q nxt, p = .seq (.setst st) q nxt := by
  cases p with
  | seq u q nxt =>
    cases u with
    | setst => cases h; exact ⟨q, nxt, rfl⟩
    | _ => cases h
  | _ => cases h

/-- 60 R201: where the invariants hold, the µop the phase names meets none of the conditions of `exec_fault`. -/
theorem exec_main_fault {s t : State} (hb : BufferMatchesPhase s) (hk : HeldKeyIsAKey s)
    (h : exec s.phase.instr s = .next t) : t.fault = s.fault := by
  obtain ⟨-, hphase⟩ := hb
  obtain hsame | ⟨-, ⟨hi, hls⟩ | ⟨k, hi, hbad⟩ | hi⟩ := exec_fault h
  · exact hsame
  · rw [Phase.eq_dispatch_of_instr hi] at hphase
    simp +decide [hls, dispatchReady] at hphase
  · rw [HeldKeyIsAKey, Phase.eq_key_of_instr hi] at hk
    rw [Phase.eq_key_of_instr hi] at hphase
    obtain ⟨-, hfew⟩ := scanReady_iff.1 hphase
    obtain hbad | hbad := hbad
    · exact absurd hbad hk
    · omega
  · obtain ⟨q, nxt, hp⟩ := Phase.eq_seq_of_instr hi
    rw [hp] at hphase
    exact absurd rfl (queueReady_head_ne_reserved hphase.1)

theorem exec_handler_fault {i : Instr} {s t : State} (hi : i.isHandler = true) (h : exec i s = .next t) :
    t.fault = s.fault := by
  cases i with
  | tick | edge => cases h; simp
  | _ => cases hi

/-- Settles O42: `exec_main_fault` for MAIN's µop and `exec_handler_fault` for a handler; the words handed are legal. -/
theorem sequencerRaisesNoFault : Obligations.SequencerRaisesNoFault := by
  intro s t hc hb hk hs hwords h
  refine ⟨?_, step_keeps_heldKeyIsAKey hc hk h⟩
  obtain ⟨i, hi, -, h⟩ | ⟨w, e, hn, hd, -⟩ | ⟨k, -, rfl⟩ | ⟨k, -, rfl⟩ | ⟨-, rfl⟩ := step_cases h
  · obtain rfl | hi := hi
    · exact (exec_main_fault (s := s.popTurn) hb hk h).trans hs
    · exact (exec_handler_fault hi h).trans hs
  · obtain ⟨i, hi⟩ := hwords w hn
    simp [hd] at hi
  · exact hs
  · exact hs
  · rfl

/-! ### The guard bound -/

theorem exec_guardBounded {i : Instr} {s t : State} (hs : GuardBounded s) (h : exec i s = .next t) :
    GuardBounded t := by
  rw [GuardBounded, exec_cfg h]
  cases i with
  | tick =>
    rw [exec_tick_dc h]
    exact (Nat.sub_le _ _).trans hs
  | edge =>
    rw [exec_edge_dc h]
    split
    · exact le_rfl
    · exact hs
  | _ =>
    rw [exec_dc_of_not_handler rfl h]
    exact hs

/-- Settles O38: `exec_guardBounded`; a raised illegal word and the key actions leave `dc`, and a reset clears it. -/
theorem stepKeepsGuardBound : Obligations.StepKeepsGuardBound := by
  intro s t hs h
  obtain ⟨i, -, -, h⟩ | ⟨w, e, -, -, rfl⟩ | ⟨k, -, rfl⟩ | ⟨k, -, rfl⟩ | ⟨-, rfl⟩ := step_cases h
  · exact exec_guardBounded (s := s.popTurn) hs h
  · exact hs
  · exact hs
  · exact hs
  · exact Nat.zero_le _

/-! ### The canonical forms -/

theorem State.powerOn_keysCanonical (cfg : CfgRegs) (sched : List Turn) (choices : List Bool) (n : Nat) :
    (State.powerOn cfg sched choices n).keysCanonical = true :=
  beq_iff_eq.2 (filter_allKeys_canonical _)

theorem exec_canonical {i : Instr} {s t : State} (hs : Canonical s) (h : exec i s = .next t) : Canonical t := by
  obtain ⟨hmem, hkeys⟩ := hs
  refine ⟨?_, by rwa [State.keysCanonical, exec_pressed h]⟩
  by_cases hi : ∃ k, i = .bufapp k
  · obtain ⟨k, rfl⟩ := hi
    obtain hbuf | ⟨-, hlen, hbuf⟩ := exec_bufapp_buf h
    · rwa [hbuf]
    · rw [hbuf]
      exact Memory.wf_write _ _ _ hlen hmem
  · rwa [exec_buf (not_exists.1 hi) h]

/-- Settles O39: `exec_canonical`, and the canonical sets of closed keys ENV's actions and a reset leave. -/
theorem stepKeepsCanonicalForms : Obligations.StepKeepsCanonicalForms := by
  intro s t hs h
  obtain ⟨i, -, -, h⟩ | ⟨w, e, -, -, rfl⟩ | ⟨k, -, rfl⟩ | ⟨k, -, rfl⟩ | ⟨-, rfl⟩ := step_cases h
  · exact exec_canonical (s := s.popTurn) hs h
  · exact hs
  · exact ⟨hs.1, State.pressKey_canonical _ k⟩
  · exact ⟨hs.1, State.releaseKey_canonical _ k⟩
  · exact ⟨State.powerOn_canonical _ _ _ _, State.powerOn_keysCanonical _ _ _ _⟩

/-! ### The written bytes -/

theorem SameMainRegs.bytesBelowLenWritten {s t : State} (h : SameMainRegs s t) (hs : BytesBelowLenWritten s) :
    BytesBelowLenWritten t := by
  rw [BytesBelowLenWritten, h.len, h.buf]
  exact hs

theorem bytesBelowLenWritten_of_empty {s : State} (h : s.len = 0#3) : BytesBelowLenWritten s := by
  intro i hi
  simp [h] at hi

/-- 44 R174 for the written bytes: the byte counted is the byte stored. -/
theorem State.append_bytesBelowLenWritten {s : State} (hs : BytesBelowLenWritten s) (k : Byte) :
    BytesBelowLenWritten (s.append k) := by
  by_cases hlen : s.len.toNat < 4
  · rw [State.append_of_lt hlen]
    intro i hi
    have hcount : i < s.len.toNat + 1 := hi.trans_le (by rw [BitVec.toNat_ofNat]; exact Nat.mod_le _ _)
    show (Memory.lookup (Memory.write s.buf s.len.toNat k) i).isSome = true
    by_cases hlast : i = s.len.toNat
    · rw [hlast, Memory.lookup_write_same]
      rfl
    · rw [Memory.lookup_write_other _ _ _ _ hlast]
      exact hs i (by omega)
  · rw [State.append_of_full (not_lt.1 hlen)]
    exact hs

theorem exec_bytesBelowLenWritten {i : Instr} {s t : State} (hs : BytesBelowLenWritten s) (h : exec i s = .next t) :
    BytesBelowLenWritten t := by
  cases i with
  | bufclr => cases h; exact bytesBelowLenWritten_of_empty rfl
  | bufapp k =>
    cases h
    split
    · exact hs
    · exact State.append_bytesBelowLenWritten hs k
  | _ =>
    rw [BytesBelowLenWritten, exec_len (by simp) (by simp) h, exec_buf (by simp) h]
    exact hs

/-- Settles O40: `exec_bytesBelowLenWritten`; a reset leaves an empty buffer. -/
theorem stepKeepsBytesBelowLenWritten : Obligations.StepKeepsBytesBelowLenWritten := fun _ _ =>
  step_keeps_of_main SameMainRegs.bytesBelowLenWritten (fun _ => bytesBelowLenWritten_of_empty rfl)
    exec_bytesBelowLenWritten

/-- Settles O41: in a full buffer every byte compared is a listed one, and a buffer that is not full never matches. -/
theorem comparisonIgnoresResetBytes : Obligations.ComparisonIgnoresResetBytes := by
  intro s n hs
  rw [Bool.eq_iff_iff, State.codeMatches_iff, State.codeMatches_iff]
  refine and_congr_right fun hlen => forall_congr' fun i => ?_
  obtain ⟨v, hv⟩ := Option.isSome_iff_exists.1 (hs i.val (by rw [hlen]; exact i.isLt))
  simp [State.bufRead, hv]

/-! ### At reset -/

/-- Settles O35: reset is DISPATCH in Locked with all rows high, an empty buffer, no held key and `dc` 0. -/
theorem invariantsHoldAtReset : Obligations.InvariantsHoldAtReset :=
  ⟨rfl, ⟨Nat.zero_le 4, rfl⟩, trivial, Nat.zero_le _,
    ⟨State.powerOn_canonical _ _ _ _, State.powerOn_keysCanonical _ _ _ _⟩, bytesBelowLenWritten_of_empty rfl⟩

end Sys2Proof.Machine

/-! 42 R122, 43 R152: the drawn bits. A contended column's level and the order of a SETIND can be drawn at will, and
what is drawn later is left; RWAIT's sample passes or holds. -/

namespace Sys2Proof.Machine

theorem State.colIn_getLsbD (s : State) (c : Col) : s.colIn.getLsbD c.val = s.colLevel c := by
  have bits : ∀ x y z : Bool, (BitVec.ofBool z ++ BitVec.ofBool y ++ BitVec.ofBool x).getLsbD 0 = x ∧
      (BitVec.ofBool z ++ BitVec.ofBool y ++ BitVec.ofBool x).getLsbD 1 = y ∧
      (BitVec.ofBool z ++ BitVec.ofBool y ++ BitVec.ofBool x).getLsbD 2 = z := by decide
  obtain ⟨h0, h1, h2⟩ := bits (s.colLevel 0) (s.colLevel 1) (s.colLevel 2)
  fin_cases c
  · exact h0
  · exact h1
  · exact h2

theorem State.colLevel_of_not_contended {s : State} {c : Col} (h : ¬ ColumnContended s c) :
    s.colLevel c = true ↔ ∀ r : Row, (r, c) ∈ s.pressed → s.rowOut.getLsbD r.val = true := by
  have hc : ¬ s.contended c = true := mt (s.contended_iff c).1 h
  simp only [State.colLevel, if_neg hc, List.all_eq_true, State.mem_closedRows, State.rowLevel]

/-- The columns that take a draw, lowest first: column c's is the one with `contendedBelow c` draws before it. -/
theorem getElem?_contended_map {s : State} {c : Col} (h : s.contended c = true) (level : Col → Bool) :
    ((allCols.filter s.contended).map level)[s.contendedBelow c]? = some (level c) := by
  rw [State.contendedBelow, allCols]
  fin_cases c
  · simp_all
  · cases h0 : s.contended 0 <;> simp_all
  · cases h0 : s.contended 0 <;> cases h1 : s.contended 1 <;> simp_all

/-- 42 R122: the bits at the head of `choices`, one for each contended column, are the levels the sample reads. -/
theorem State.colLevel_of_contended {s : State} {c : Col} {level : Col → Bool} {later : List Bool}
    (hc : s.contended c = true) (hdrawn : s.choices = (allCols.filter s.contended).map level ++ later) :
    s.colLevel c = level c := by
  have hbit := getElem?_contended_map hc level
  obtain ⟨hlt, -⟩ := List.getElem?_eq_some_iff.1 hbit
  rw [State.colLevel, if_pos hc, State.drawAt, hdrawn, List.getElem?_append_left hlt, hbit, Option.getD_some]

theorem State.afterColIn_choices_of_drawn {s : State} {level : Col → Bool} {later : List Bool}
    (hdrawn : s.choices = (allCols.filter s.contended).map level ++ later) : s.afterColIn.choices = later := by
  rw [State.afterColIn_choices, hdrawn, List.drop_left' (List.length_map _)]

theorem exec_sample_choices {r : Row} {s t : State} (h : exec (.sample r) s = .next t) :
    t.choices = s.afterColIn.choices := by
  cases h
  rfl

theorem exec_rwait_choices {r : Row} {s t : State} (h : exec (.rwait r) s = .next t) :
    t.choices = s.afterColIn.choices := by
  cases h
  split <;> rfl

/-- Settles O18: the levels of the contended columns, put before the bits to be drawn later, are the bits to draw. -/
theorem columnSampleIsExactOrADraw : Obligations.ColumnSampleIsExactOrADraw := by
  intro s
  refine ⟨fun c hc => ?_, fun level later => ⟨(allCols.filter s.contended).map level ++ later, ?_, ?_, ?_⟩⟩
  · rw [s.colIn_getLsbD]
    exact State.colLevel_of_not_contended hc
  · intro c hc
    rw [State.colIn_getLsbD]
    exact State.colLevel_of_contended ((s.contended_iff c).2 hc) rfl
  · intro r
    obtain ⟨t, ht⟩ := exec_next (.sample r) _
    exact ⟨t, ht, (exec_sample_choices ht).trans (State.afterColIn_choices_of_drawn rfl)⟩
  · intro r
    obtain ⟨t, ht⟩ := exec_next (.rwait r) _
    exact ⟨t, ht, (exec_rwait_choices ht).trans (State.afterColIn_choices_of_drawn rfl)⟩

/-- 43 R152: the order of a SETIND is the first drawn bit, and the bits after it are left. -/
theorem State.startSeq_of_drawn (s : State) (redFirst : Bool) (later : List Bool) (expand : Bool → List SeqOp) :
    (({ s with choices := redFirst :: later } : State).startSeq expand).choices = later ∧
      (({ s with choices := redFirst :: later } : State).startSeq expand).phase =
        enqueue (expand redFirst) .dispatch :=
  ⟨rfl, rfl⟩

/-- Settles O28: the order wanted is the first bit to draw, whichever the transition. -/
theorem eitherIndicatorOrderCanBeDrawn : Obligations.EitherIndicatorOrderCanBeDrawn := by
  intro s redFirst later
  refine ⟨redFirst :: later, fun hls hpend => ?_, fun hls hpend => ?_, fun hcode => ?_, fun hcode => ?_⟩
  · have hdisp := State.dispatch_of_locked_pend (s := { s with choices := redFirst :: later }) hls hpend
    rw [exec_disp, hdisp]
    exact ⟨_, rfl, s.startSeq_of_drawn redFirst later seqLB⟩
  · have hdisp := State.dispatch_of_unlocked_pend (s := { s with choices := redFirst :: later }) hls hpend
    rw [exec_disp, hdisp]
    exact ⟨_, rfl, s.startSeq_of_drawn redFirst later seqUB⟩
  · exact ⟨_, exec_cmp_of_matches hcode, s.startSeq_of_drawn redFirst later seqOk⟩
  · exact ⟨_, exec_cmp_of_not_matches (Bool.eq_false_iff.1 hcode), s.startSeq_of_drawn redFirst later seqBad⟩

/-! ### RWAIT -/

theorem encode_rwait (r : Row) : encode (.rwait r) = 0x8000#16 ||| BitVec.ofNat 16 r.val :=
  opcode_append_row 0x8#4 r

theorem exec_rwait_of_high {s : State} (h : s.colIn = 0b111#3) (r : Row) :
    exec (.rwait r) s = .next { s with
      choices := s.choices.drop (bitsSampled s)
      draws := s.draws + (bitsSampled s - s.choices.length)
      phase := s.phase.afterRwait
      stepLog := s.stepLog ++ [.word (0x8000#16 ||| BitVec.ofNat 16 r.val)] } := by
  rw [exec, execRwait, if_pos h, s.afterColIn_eq, ← encode_rwait]
  rfl

theorem exec_rwait_of_low {s : State} (h : s.colIn ≠ 0b111#3) (r : Row) :
    exec (.rwait r) s = .next { s with
      choices := s.choices.drop (bitsSampled s)
      draws := s.draws + (bitsSampled s - s.choices.length) } := by
  rw [exec, execRwait, if_neg h, s.afterColIn_eq]
  rfl

@[simp] theorem Phase.afterRwait_scanRwait (r : Row) (k : Byte) : (Phase.scanRwait r k).afterRwait = .scanRet r k := rfl

/-- Settles O19: `exec_rwait_of_high` and `exec_rwait_of_low`. -/
theorem rwaitPassesOrHolds : Obligations.RwaitPassesOrHolds := by
  intro r k s hp
  refine ⟨fun h => ?_, fun h => exec_rwait_of_low h r⟩
  rw [exec_rwait_of_high h, hp, Phase.afterRwait_scanRwait]

end Sys2Proof.Machine

/-! 10 R28, R35, 30 R75, 60 R200: which turn a step takes, and what ENV's turns, an illegal word and the raised faults
leave. 60 R203, 10 R38: the two handlers against each other. -/

namespace Sys2Proof.Machine

/-! ### The next turn -/

theorem step_of_sched_cons {s : State} {turn : Turn} {rest : List Turn} (h : s.sched = turn :: rest) :
    step s = takeTurn turn { s with sched := rest } := by
  simp [step, State.nextTurn, State.popTurn, h]

theorem step_of_sched_nil {s : State} (h : s.sched = []) :
    step s = perform (Config.freeAction s.draws) { s with draws := s.draws + 1 } := by
  simp [step, State.nextTurn, State.popTurn, takeTurn, h]

theorem runWord_of_illegal {w : Word} {e : Illegal} (h : decode w = .error e) (s : State) :
    runWord w s = .next (s.raiseIllegal w) := by
  rw [runWord, h]

theorem runWord_of_named {w : Word} {i : Instr} {s : State} (h : decode w = .ok i)
    (hi : i.isHandler = true ∨ s.phase.instr = i) : runWord w s = exec i s := by
  have hrun : (i.isHandler || s.phase.instr == i) = true := by simpa using hi
  simp [runWord, h, hrun]

theorem runWord_of_not_named {w : Word} {i : Instr} {s : State} (h : decode w = .ok i)
    (hi : i.isHandler = false) (hp : s.phase.instr ≠ i) : runWord w s = .fault (.wordNotNamedByPhase w) := by
  simp [runWord, h, hi, hp]

/-- Settles O7: `step_of_sched_cons` and `step_of_sched_nil` name the turn, `runWord_of_named` a handed word's µop;
the closed keys after ENV's actions are the laws' `mem_pressKey` and `mem_releaseKey`. -/
theorem stepRunsTheDecodedMicroOp : Obligations.StepRunsTheDecodedMicroOp := by
  intro s rest
  refine ⟨fun w i hs hd hi => ?_, step_of_sched_cons, step_of_sched_cons, step_of_sched_cons,
    fun hs => ⟨_, step_of_sched_nil hs⟩, fun a => step_of_sched_cons, fun k => ?_, fun k => ?_⟩
  · rw [step_of_sched_cons hs]
    exact runWord_of_named hd hi
  · exact ⟨_, rfl, s.mem_pressKey k, rfl⟩
  · exact ⟨_, rfl, s.mem_releaseKey k, rfl⟩

/-- Settles O9: `runWord_of_illegal`. -/
theorem illegalWordRaisesItsFault : Obligations.IllegalWordRaisesItsFault := by
  intro s w rest e hs hd
  rw [step_of_sched_cons hs]
  exact runWord_of_illegal hd _

/-- Settles O10: `runWord_of_not_named`. -/
theorem wordNotNamedByPhaseStops : Obligations.WordNotNamedByPhaseStops := by
  intro s w i rest hs hd hi hp
  rw [step_of_sched_cons hs]
  exact runWord_of_not_named hd hi hp

/-- Settles O11: DISP's and BUFAPP's raising cases; SETST 3 and BUFAPP 0 raise before anything else. -/
theorem raisedFaultsChangeNothingElse : Obligations.RaisedFaultsChangeNothingElse := by
  intro s
  refine ⟨fun hls => ?_, fun k hk hlen => ?_, rfl, rfl⟩
  · rw [exec_disp, State.dispatch_of_reserved hls]
    rfl
  · rw [exec_bufapp hk, State.append_of_full hlen, ← encode_bufapp]
    rfl

/-- Settles O6: the registers of `Config.default` evaluated; FLASH_TIME is a quotient of positive numbers. -/
theorem resetConfigurationIsTheReferenceOne : Obligations.ResetConfigurationIsTheReferenceOne := by
  refine ⟨?_, rfl, rfl, rfl, rfl, rfl, by decide, by decide, by decide, by decide, by decide⟩
  constructor
  case tickPos | settlePos => norm_num [State.reset, State.powerOn, Config.default]
  case flashPos =>
    show (0 : Rat) < (Config.flashTimeParts.1 + 1) / (Config.flashTimeParts.2 + 1)
    positivity
  all_goals decide

/-! ### The handlers -/

theorem State.edgeWrite_of_guarded {s : State} {v : BitVec 8} (h : v ≠ 0#8) : s.edgeWrite v = s := if_neg h

@[simp] theorem State.tickWrite_zero (s : State) : s.tickWrite 0#8 = s := rfl

/-- Settles O43: with `dc` 0 TICK writes nothing, otherwise EDGE writes nothing, so a nested run is a sequential one. -/
theorem handlersNestOrRunInEitherOrder : Obligations.HandlersNestOrRunInEitherOrder := by
  intro s
  refine ⟨?_, ?_, fun hd => ⟨?_, ?_⟩⟩
  · by_cases hd : s.dc = 0#8
    · simp [hd]
    · simp [hd, State.edgeWrite_of_guarded]
  · by_cases hd : s.dc = 0#8
    · simp [hd]
    · simp [hd, State.edgeWrite_of_guarded]
  · refine ⟨_, rfl, ?_, ?_⟩ <;> simp [State.edgeWrite_dc, State.edgeWrite_pend, State.tickWrite_dc, hd]
  · refine ⟨_, rfl, ?_, ?_⟩ <;> simp [State.edgeWrite_dc, State.edgeWrite_pend, State.tickWrite_dc, hd]

end Sys2Proof.Machine

/-! Finite runs of agents' turns. The other agents' turns between MAIN's leave MAIN's registers, so a run through a
SEQ is told by the µops MAIN has taken from it, however the turns interleave. -/

namespace Sys2Proof.Machine

/-! ### Runs -/

theorem performAll_cons_eq {a : Action} {as : List Action} {s t : State} (h : performAll (a :: as) s = .next t) :
    ∃ u, perform a s = .next u ∧ performAll as u = .next t := by
  obtain ⟨u, hu⟩ := perform_next a s
  exact ⟨u, hu, (performAll_cons hu as).symm.trans h⟩

theorem performAll_append {as : List Action} {s u : State} (h : performAll as s = .next u) (bs : List Action) :
    performAll (as ++ bs) s = performAll bs u := by
  induction as generalizing s with
  | nil => cases h; rfl
  | cons a as ih =>
    obtain ⟨v, hv, h⟩ := performAll_cons_eq h
    rw [List.cons_append, performAll_cons hv, ih h]

theorem performAll_append_eq {as bs : List Action} {s t : State} (h : performAll (as ++ bs) s = .next t) :
    ∃ u, performAll as s = .next u ∧ performAll bs u = .next t := by
  obtain ⟨u, hu⟩ := performAll_next as s
  exact ⟨u, hu, (performAll_append hu bs).symm.trans h⟩

/-- What every turn of a run keeps, the run keeps; `ok` names the turns the run is made of. -/
theorem performAll_keeps {P : State → Prop} {ok : Action → Prop}
    (hturn : ∀ {a s t}, ok a → P s → perform a s = .next t → P t) {as : List Action} {s t : State}
    (has : ∀ a ∈ as, ok a) (hs : P s) (h : performAll as s = .next t) : P t := by
  induction as generalizing s with
  | nil => cases h; exact hs
  | cons a as ih =>
    obtain ⟨u, hu, h⟩ := performAll_cons_eq h
    exact ih (fun b hb => has b (List.mem_cons_of_mem a hb)) (hturn (has a List.mem_cons_self) hs hu) h

theorem performAll_cfg {as : List Action} {s t : State} (h : performAll as s = .next t) : t.cfg = s.cfg :=
  performAll_keeps (P := fun u => u.cfg = s.cfg) (ok := fun _ => True) (fun _ hs hu => (perform_cfg hu).trans hs)
    (fun _ _ => trivial) rfl h

/-- A run can be cut after any number of its turns of one kind. -/
theorem exists_append_of_le_count {a : Action} {as : List Action} {n : Nat} (h : n ≤ as.count a) :
    ∃ bs cs, as = bs ++ cs ∧ bs.count a = n := by
  induction as generalizing n with
  | nil => exact ⟨[], [], rfl, (Nat.le_zero.1 h).symm⟩
  | cons b as ih =>
    cases n with
    | zero => exact ⟨[], b :: as, rfl, rfl⟩
    | succ n =>
      rw [List.count_cons] at h
      by_cases hb : b = a
      · obtain ⟨bs, cs, rfl, hbs⟩ := ih (n := n) (by simpa [hb] using h)
        exact ⟨b :: bs, cs, rfl, by simp [hb, hbs]⟩
      · obtain ⟨bs, cs, rfl, hbs⟩ := ih (n := n + 1) (by simpa [hb] using h)
        exact ⟨b :: bs, cs, rfl, by simp [hb, hbs]⟩

/-! ### The button event -/

/-- 10 R25: what a run without a PCLR does to `pend`: only an EDGE may set it. -/
def PendKept (as : List Action) (s t : State) : Prop :=
  (s.pend = true → t.pend = true) ∧ (.edge ∉ as → t.pend = s.pend)

theorem PendKept.cons {a : Action} {as : List Action} {s u t : State} (h : PendKept [a] s u) (h' : PendKept as u t) :
    PendKept (a :: as) s t := by
  obtain ⟨hset, hsame⟩ := h
  obtain ⟨hset', hsame'⟩ := h'
  refine ⟨fun hs => hset' (hset hs), fun he => ?_⟩
  rw [List.mem_cons, not_or] at he
  rw [hsame' he.2, hsame (by simpa using he.1)]

theorem pendKept_of_eq {as : List Action} {s t : State} (h : t.pend = s.pend) : PendKept as s t :=
  ⟨fun hs => h.trans hs, fun _ => h⟩

theorem perform_pendKept {a : Action} {s t : State} (hm : a ≠ .main) (hr : a ≠ .reset)
    (h : perform a s = .next t) : PendKept [a] s t := by
  cases a with
  | main => exact absurd rfl hm
  | reset => exact absurd rfl hr
  | tick => exact pendKept_of_eq (exec_pend (i := .tick) (by simp) (by simp) h)
  | press | release => cases h; exact pendKept_of_eq rfl
  | edge =>
    refine ⟨fun hs => ?_, fun he => absurd List.mem_cons_self he⟩
    cases h
    simp [State.edgeWrite_pend, hs]

theorem performAll_pendKept {as : List Action} {s t : State} (hm : .main ∉ as) (hr : .reset ∉ as)
    (h : performAll as s = .next t) : PendKept as s t := by
  induction as generalizing s with
  | nil => cases h; exact pendKept_of_eq rfl
  | cons a as ih =>
    obtain ⟨u, hu, h⟩ := performAll_cons_eq h
    rw [List.mem_cons, not_or, ← ne_eq] at hm hr
    exact (perform_pendKept hm.1.symm hr.1.symm hu).cons (ih hm.2 hr.2 h)

/-! ### Queues of µops -/

/-- The registers the transitions of 44 R171 to R179 write. -/
structure LockRegs where
  ls : LockCode
  len : BitVec 3
  ledRed : Bool
  ledGreen : Bool
  pwmCmp : BitVec 16

def State.lockRegs (s : State) : LockRegs := ⟨s.ls, s.len, s.ledRed, s.ledGreen, s.pwmCmp⟩

/-- What a queued µop does to these registers (43 R150, R151; 44 R173, R176). -/
def LockRegs.apply (cfg : CfgRegs) (x : LockRegs) : SeqOp → LockRegs
  | .act locked => { x with pwmCmp := cfg.duty locked }
  | .pinw .red v => { x with ledRed := v }
  | .pinw .green v => { x with ledGreen := v }
  | .bufclr => { x with len := 0#3 }
  | .setst st => { x with ls := st }
  | .pclr => x
  | .waitFlash => x

theorem exec_seqOp_lockRegs {u : SeqOp} {s t : State} (hu : u ≠ .setst LockCode.reserved)
    (h : exec u.instr s = .next t) : t.lockRegs = s.lockRegs.apply s.cfg u := by
  cases u with
  | setst st =>
    have hst : st ≠ LockCode.reserved := fun he => hu (he ▸ rfl)
    rw [SeqOp.instr, exec_setst hst] at h
    cases h
    rfl
  | pinw pin => cases pin <;> cases h <;> rfl
  | _ => cases h; rfl

theorem SameMainRegs.lockRegs {s t : State} (h : SameMainRegs s t) : t.lockRegs = s.lockRegs := by
  rw [State.lockRegs, h.ls, h.len, h.ledRed, h.ledGreen, h.pwmCmp]
  rfl

theorem exec_seqOp_pend {u : SeqOp} {s t : State} (hu : u ≠ .pclr) (h : exec u.instr s = .next t) :
    t.pend = s.pend := by
  refine exec_pend ?_ ?_ h
  · cases u <;> simp [SeqOp.instr]
  · cases u <;> simp_all [SeqOp.instr]

/-- 10 R28: after n turns of MAIN in a queue, whatever the other agents did between, the first n µops of the queue are
done and the rest is to come. -/
theorem performAll_queue {as : List Action} {q : List SeqOp} {nxt : SeqNext} {s t : State}
    (hp : s.phase = enqueue q nxt) (hq : .setst LockCode.reserved ∉ q) (hr : .reset ∉ as)
    (hc : as.count .main ≤ q.length) (h : performAll as s = .next t) :
    t.phase = enqueue (q.drop (as.count .main)) nxt ∧
      t.lockRegs = (q.take (as.count .main)).foldl (LockRegs.apply s.cfg) s.lockRegs ∧
      (.pclr ∉ q → PendKept as s t) := by
  induction as generalizing s q with
  | nil => cases h; exact ⟨hp, rfl, fun _ => pendKept_of_eq rfl⟩
  | cons a as ih =>
    obtain ⟨v, hv, hrun⟩ := performAll_cons_eq h
    rw [List.mem_cons, not_or, ← ne_eq] at hr
    obtain ⟨har, hr⟩ := hr
    by_cases ha : a = .main
    · subst ha
      rw [List.count_cons_self] at hc ⊢
      cases q with
      | nil => exact absurd hc (Nat.not_succ_le_zero _)
      | cons u q =>
        rw [List.mem_cons, not_or] at hq
        have hexec : exec u.instr s = .next v := perform_main hp ▸ hv
        obtain ⟨hphase, hregs, hpend⟩ := ih (exec_seqOp_phase hp (Ne.symm hq.1) hexec) hq.2 hr
          (Nat.le_of_succ_le_succ hc) hrun
        refine ⟨hphase, ?_, fun hclr => ?_⟩
        · rw [hregs, exec_seqOp_lockRegs (Ne.symm hq.1) hexec, exec_cfg hexec]
          rfl
        · rw [List.mem_cons, not_or] at hclr
          exact (pendKept_of_eq (exec_seqOp_pend (Ne.symm hclr.1) hexec)).cons (hpend hclr.2)
    · have hsame := perform_sameMainRegs ha har.symm hv
      rw [List.count_cons_of_ne ha] at hc ⊢
      obtain ⟨hphase, hregs, hpend⟩ := ih (hsame.phase.trans hp) hq hr hc hrun
      refine ⟨hphase, ?_, fun hclr => (perform_pendKept ha har.symm hv).cons (hpend hclr)⟩
      rw [hregs, hsame.lockRegs, hsame.cfg]

/-! ### The four transitions -/

theorem SameMainRegs.codeMatches {s t : State} (h : SameMainRegs s t) : t.codeMatches = s.codeMatches := by
  have hread : t.bufRead = s.bufRead := funext fun a => State.bufRead_congr h.buf h.bootDraw a
  rw [State.codeMatches, State.codeMatches, h.len, h.cfg, hread]

/-- The state is where MAIN's next step starts a transition: T_LB or T_UB by a button event (44 R171, R172), T_OK or
T_BAD by the comparison (44 R178, R179). -/
inductive Starts : (Bool → List SeqOp) → State → Prop
  | buttonInLocked {s : State} : s.phase = .dispatch → s.ls = LockCode.locked → s.pend = true → Starts seqLB s
  | buttonInUnlocked {s : State} : s.phase = .dispatch → s.ls = LockCode.unlocked → s.pend = true → Starts seqUB s
  | rightCode {s : State} : s.phase = .compare → s.codeMatches = true → Starts seqOk s
  | wrongCode {s : State} : s.phase = .compare → s.codeMatches = false → Starts seqBad s

theorem Starts.of_other {expand : Bool → List SeqOp} {a : Action} {s t : State} (hs : Starts expand s)
    (hm : a ≠ .main) (hr : a ≠ .reset) (h : perform a s = .next t) : Starts expand t := by
  have hsame := perform_sameMainRegs hm hr h
  obtain ⟨hpend, -⟩ := perform_pendKept hm hr h
  cases hs with
  | buttonInLocked hp hls hb => exact .buttonInLocked (hsame.phase.trans hp) (hsame.ls.trans hls) (hpend hb)
  | buttonInUnlocked hp hls hb => exact .buttonInUnlocked (hsame.phase.trans hp) (hsame.ls.trans hls) (hpend hb)
  | rightCode hp hcode => exact .rightCode (hsame.phase.trans hp) (hsame.codeMatches.trans hcode)
  | wrongCode hp hcode => exact .wrongCode (hsame.phase.trans hp) (hsame.codeMatches.trans hcode)

theorem Starts.perform_main {expand : Bool → List SeqOp} {s t : State} (hs : Starts expand s)
    (h : perform .main s = .next t) : t = (s.startSeq expand).logStep s.phase.instr := by
  cases hs with
  | buttonInLocked hp hls hb =>
    rw [Machine.perform_main hp, Phase.instr, exec_disp, State.dispatch_of_locked_pend hls hb] at h
    cases h
    rw [hp, Phase.instr]
  | buttonInUnlocked hp hls hb =>
    rw [Machine.perform_main hp, Phase.instr, exec_disp, State.dispatch_of_unlocked_pend hls hb] at h
    cases h
    rw [hp, Phase.instr]
  | rightCode hp hcode =>
    rw [Machine.perform_main hp, Phase.instr, exec_cmp_of_matches hcode] at h
    cases h
    rw [hp, Phase.instr]
  | wrongCode hp hcode =>
    rw [Machine.perform_main hp, Phase.instr, exec_cmp_of_not_matches (Bool.eq_false_iff.1 hcode)] at h
    cases h
    rw [hp, Phase.instr]

theorem Starts.setst_reserved_not_mem {expand : Bool → List SeqOp} {s : State} (hs : Starts expand s)
    (redFirst : Bool) : .setst LockCode.reserved ∉ expand redFirst := by
  cases hs <;> cases redFirst <;> decide

/-- After n + 1 turns of MAIN from where a transition starts, for some order of its SETIND, its first n µops are done
and the rest is to come. -/
theorem performAll_transition {expand : Bool → List SeqOp} {as : List Action} {s t : State} {n : Nat}
    (hs : Starts expand s) (hr : .reset ∉ as) (hc : as.count .main = n + 1) (hn : ∀ b, n ≤ (expand b).length)
    (h : performAll as s = .next t) :
    ∃ b, t.phase = enqueue ((expand b).drop n) .dispatch ∧
      t.lockRegs = ((expand b).take n).foldl (LockRegs.apply s.cfg) s.lockRegs ∧
      (.pclr ∉ expand b → PendKept as s t) := by
  induction as generalizing s with
  | nil => cases hc
  | cons a as ih =>
    obtain ⟨v, hv, hrun⟩ := performAll_cons_eq h
    rw [List.mem_cons, not_or, ← ne_eq] at hr
    obtain ⟨har, hr⟩ := hr
    by_cases ha : a = .main
    · subst ha
      rw [List.count_cons_self, Nat.add_right_cancel_iff] at hc
      subst hc
      have hstart := hs.perform_main hv
      have hphase : v.phase = enqueue (expand (s.drawAt 0)) .dispatch := by rw [hstart]; rfl
      have hregs : v.lockRegs = s.lockRegs := by rw [hstart]; rfl
      have hpend : v.pend = s.pend := by rw [hstart]; rfl
      obtain ⟨hp, hl, hb⟩ := performAll_queue hphase (hs.setst_reserved_not_mem _) hr (hn _) hrun
      refine ⟨s.drawAt 0, hp, ?_, fun hclr => (pendKept_of_eq hpend).cons (hb hclr)⟩
      rw [hl, hregs, perform_cfg hv]
    · have hsame := perform_sameMainRegs ha har.symm hv
      rw [List.count_cons_of_ne ha] at hc
      obtain ⟨b, hp, hl, hb⟩ := ih (hs.of_other ha har.symm hv) hr hc hrun
      refine ⟨b, hp, ?_, fun hclr => (perform_pendKept ha har.symm hv).cons (hb hclr)⟩
      rw [hl, hsame.lockRegs, hsame.cfg]

theorem le_length_of_drop_eq_singleton {l : List SeqOp} {n : Nat} {u : SeqOp} (h : l.drop n = [u]) :
    n ≤ l.length := by
  have hlen := congrArg List.length h
  rw [List.length_drop, List.length_singleton] at hlen
  omega

/-- 44 R171, R172: a transition whose last µop is PCLR ends without an event, unless an EDGE comes after it. -/
theorem performAll_pend_of_last_pclr {expand : Bool → List SeqOp} {pre post : List Action} {s t : State} {n : Nat}
    (hs : Starts expand s) (hlast : ∀ b, (expand b).drop n = [.pclr]) (hr : .reset ∉ pre ++ .main :: post)
    (hc : (pre ++ .main :: post).count .main = n + 2) (hm : .main ∉ post) (he : .edge ∉ post)
    (h : performAll (pre ++ .main :: post) s = .next t) : t.pend = false := by
  have hpost : post.count .main = 0 := List.count_eq_zero.2 hm
  rw [List.count_append, List.count_cons_self, hpost] at hc
  simp only [List.mem_append, List.mem_cons, not_or] at hr
  obtain ⟨hrpre, -, hrpost⟩ := hr
  have hn (b : Bool) : n ≤ (expand b).length := le_length_of_drop_eq_singleton (hlast b)
  obtain ⟨u, hu, h⟩ := performAll_append_eq h
  obtain ⟨v, hv, h⟩ := performAll_cons_eq h
  obtain ⟨b, hp, -⟩ := performAll_transition hs hrpre (by omega) hn hu
  rw [hlast, enqueue_cons] at hp
  rw [perform_main hp, Phase.instr, SeqOp.instr, exec_pclr] at hv
  cases hv
  exact (performAll_pendKept hm hrpost h).2 he

/-! ### The ends of the four transitions -/

section

variable (cfg : CfgRegs) (x : LockRegs) (redFirst : Bool)

theorem seqLB_foldl : (seqLB redFirst).foldl (LockRegs.apply cfg) x =
    ⟨LockCode.entering, 0#3, false, false, x.pwmCmp⟩ := by cases redFirst <;> rfl

theorem seqUB_foldl : (seqUB redFirst).foldl (LockRegs.apply cfg) x =
    ⟨LockCode.locked, 0#3, true, false, cfg.dutyLocked⟩ := by cases redFirst <;> rfl

theorem seqOk_foldl : (seqOk redFirst).foldl (LockRegs.apply cfg) x =
    ⟨LockCode.unlocked, 0#3, false, true, cfg.dutyUnlocked⟩ := by cases redFirst <;> rfl

theorem seqBad_foldl : (seqBad redFirst).foldl (LockRegs.apply cfg) x =
    ⟨LockCode.locked, 0#3, true, false, cfg.dutyLocked⟩ := by cases redFirst <;> rfl

end

/-- A transition run to its end is at DISPATCH with the registers its µops leave, which no order of SETIND changes. -/
theorem performAll_transition_end {expand : Bool → List SeqOp} {as : List Action} {s t : State} {n : Nat} {x : LockRegs}
    (hs : Starts expand s) (hr : .reset ∉ as) (hc : as.count .main = n + 1) (hn : ∀ b, (expand b).length = n)
    (hx : ∀ b, (expand b).foldl (LockRegs.apply s.cfg) s.lockRegs = x) (h : performAll as s = .next t) :
    t.phase = .dispatch ∧ t.lockRegs = x ∧ ((∀ b, .pclr ∉ expand b) → PendKept as s t) := by
  obtain ⟨b, hp, hl, hpend⟩ := performAll_transition hs hr hc (fun b => (hn b).ge) h
  rw [← hn b, List.drop_length, enqueue_nil] at hp
  rw [← hn b, List.take_length, hx] at hl
  exact ⟨hp, hl, fun hclr => hpend (hclr b)⟩

theorem State.of_lockRegs {t : State} {x : LockRegs} (h : t.lockRegs = x) :
    t.ls = x.ls ∧ t.len = x.len ∧ t.ledRed = x.ledRed ∧ t.ledGreen = x.ledGreen ∧ t.pwmCmp = x.pwmCmp := by
  subst h
  exact ⟨rfl, rfl, rfl, rfl, rfl⟩

/-- Settles O48: `performAll_transition_end` for T_LB, with the PCLR that T_LB ends in. -/
theorem buttonInLockedStartsEntry : Obligations.ButtonInLockedStartsEntry := by
  intro as s hp hls hb hr hc
  have hs : Starts seqLB s := .buttonInLocked hp hls hb
  obtain ⟨t, h⟩ := performAll_next as s
  obtain ⟨hphase, hl, -⟩ := performAll_transition_end hs hr hc (by decide) (seqLB_foldl _ _) h
  obtain ⟨hls, hlen, hred, hgreen, hpwm⟩ := State.of_lockRegs hl
  refine ⟨t, h, hphase, hls, hlen, hred, hgreen, hpwm, ?_⟩
  rintro pre post rfl hm he
  exact performAll_pend_of_last_pclr hs (n := 4) (by decide) hr hc hm he h

/-- Settles O49: `performAll_transition_end` for T_UB, with the PCLR that T_UB ends in. -/
theorem buttonInUnlockedLocks : Obligations.ButtonInUnlockedLocks := by
  intro as s hp hls hb hr hc
  have hs : Starts seqUB s := .buttonInUnlocked hp hls hb
  obtain ⟨t, h⟩ := performAll_next as s
  obtain ⟨hphase, hl, -⟩ := performAll_transition_end hs hr hc (by decide) (seqUB_foldl _ _) h
  obtain ⟨hls, hlen, hred, hgreen, hpwm⟩ := State.of_lockRegs hl
  refine ⟨t, h, hphase, hls, hlen, hred, hgreen, hpwm, ?_⟩
  rintro pre post rfl hm he
  exact performAll_pend_of_last_pclr hs (n := 5) (by decide) hr hc hm he h

/-- Settles O50: `performAll_transition_end` for T_OK, which has no PCLR. -/
theorem rightCodeUnlocks : Obligations.RightCodeUnlocks := by
  intro as s hp hcode hr hc
  obtain ⟨t, h⟩ := performAll_next as s
  obtain ⟨hphase, hl, hpend⟩ :=
    performAll_transition_end (.rightCode hp hcode) hr hc (by decide) (seqOk_foldl _ _) h
  obtain ⟨hls, hlen, hred, hgreen, hpwm⟩ := State.of_lockRegs hl
  exact ⟨t, h, hphase, hls, hlen, hred, hgreen, hpwm, (hpend (by decide)).2⟩

/-- Settles O51: `performAll_transition_end` for T_BAD, which has no PCLR. -/
theorem wrongCodeLocks : Obligations.WrongCodeLocks := by
  intro as s hp hcode hr hc
  obtain ⟨t, h⟩ := performAll_next as s
  obtain ⟨hphase, hl, hpend⟩ :=
    performAll_transition_end (.wrongCode hp hcode) hr hc (by decide) (seqBad_foldl _ _) h
  obtain ⟨hls, hlen, hred, hgreen, hpwm⟩ := State.of_lockRegs hl
  exact ⟨t, h, hphase, hls, hlen, hred, hgreen, hpwm, (hpend (by decide)).2⟩

/-- Settles O52: the run is cut after T_OK, which keeps the event, so T_UB follows. -/
theorem retainedEventRelocks : Obligations.RetainedEventRelocks := by
  intro as s hp hcode hb hr hc
  obtain ⟨bs, cs, rfl, hbs⟩ := exists_append_of_le_count (a := .main) (n := 6) (as := as) (by omega)
  rw [List.mem_append, not_or] at hr
  rw [List.count_append] at hc
  obtain ⟨u, hu⟩ := performAll_next bs s
  obtain ⟨t, ht⟩ := performAll_next cs u
  obtain ⟨hphase, hl, hpend⟩ :=
    performAll_transition_end (.rightCode hp hcode) hr.1 hbs (by decide) (seqOk_foldl _ _) hu
  obtain ⟨hretained, -⟩ := hpend (by decide)
  obtain ⟨hls, -⟩ := State.of_lockRegs hl
  obtain ⟨hphase', hl', -⟩ := performAll_transition_end (n := 6)
    (.buttonInUnlocked hphase hls (hretained hb)) hr.2 (by omega) (by decide) (seqUB_foldl _ _) ht
  obtain ⟨hls', -, hred, hgreen, hpwm⟩ := State.of_lockRegs hl'
  exact ⟨t, (performAll_append hu cs).trans ht, hphase', hls', hpwm.trans (by rw [performAll_cfg hu]), hred, hgreen⟩

/-! ### The lost press -/

/-- 41 R110, 40 R100: without a TICK and a reset a counter that holds GUARD goes on holding it. -/
theorem perform_keeps_guard {a : Action} {s t : State} (ht : a ≠ .tick) (hr : a ≠ .reset)
    (hs : s.dc = s.cfg.guard) (h : perform a s = .next t) : t.dc = t.cfg.guard := by
  rw [perform_cfg h]
  cases a with
  | tick => exact absurd rfl ht
  | reset => exact absurd rfl hr
  | edge =>
    rw [exec_edge_dc h]
    split
    · rfl
    · exact hs
  | main => exact (exec_dc_of_not_handler s.phase.instr_not_handler h).trans hs
  | press | release => cases h; exact hs

theorem performAll_keeps_guard {as : List Action} {s t : State} (ht : .tick ∉ as) (hr : .reset ∉ as)
    (hs : s.dc = s.cfg.guard) (h : performAll as s = .next t) : t.dc = t.cfg.guard :=
  performAll_keeps (P := fun u => u.dc = u.cfg.guard) (ok := fun a => a ≠ .tick ∧ a ≠ .reset)
    (fun ⟨ht, hr⟩ hs hu => perform_keeps_guard ht hr hs hu)
    (fun _ ha => ⟨ne_of_mem_of_not_mem ha ht, ne_of_mem_of_not_mem ha hr⟩) hs h

theorem perform_edge_of_unguarded {s : State} (hd : s.dc = 0#8) :
    perform .edge s = .next { s with
      pend := true, dc := s.cfg.guard, stepLog := s.stepLog ++ [.word 0x2000#16] } := by
  rw [perform, edgeSetsTheFlagWhenUnguarded.2 s]
  simp [hd]

theorem perform_main_pclr {s : State} {q : List SeqOp} {nxt : SeqNext} (hp : s.phase = .seq .pclr q nxt) :
    perform .main s = .next { s with
      pend := false, phase := enqueue q nxt, stepLog := s.stepLog ++ [.word 0xF000#16] } :=
  (perform_main hp).trans (pclrConsumesTheEvent q nxt s hp)

/-- 44 R171, R172: a button transition is MAIN's DISP, m µops, and the PCLR. -/
theorem Starts.of_button {s : State} {n : Nat} (hp : s.phase = .dispatch) (hb : s.pend = true)
    (hn : s.ls = LockCode.locked ∧ n = 5 ∨ s.ls = LockCode.unlocked ∧ n = 6) :
    ∃ expand m, Starts expand s ∧ n = m + 1 ∧ ∀ b, (expand b).drop m = [.pclr] := by
  obtain ⟨hls, rfl⟩ | ⟨hls, rfl⟩ := hn
  · exact ⟨seqLB, 4, .buttonInLocked hp hls hb, rfl, by decide⟩
  · exact ⟨seqUB, 5, .buttonInUnlocked hp hls hb, rfl, by decide⟩

/-- Settles O47: the run up to the PCLR, the edge in it, is a run of the transition, so its PCLR is next. -/
theorem pressBeforePclrIsLost : Obligations.PressBeforePclrIsLost := by
  refine ⟨fun q nxt s hp hd => ?_, fun pre post s u hp hb hrpre hrpost _ hc hu hd => ?_⟩
  · refine ⟨_, (performAll_cons (perform_edge_of_unguarded hd) _).trans
      (performAll_cons (perform_main_pclr (q := q) (nxt := nxt) ?_) _), rfl, rfl⟩
    exact hp
  · obtain ⟨expand, m, hs, hm, hlast⟩ := Starts.of_button hp hb hc
    have hv := perform_edge_of_unguarded hd
    obtain ⟨w, hw⟩ := performAll_next post _
    have hrun : performAll (pre ++ .edge :: post) s = .next w := by
      rw [performAll_append hu, performAll_cons hv, hw]
    have hcount : (pre ++ .edge :: post).count .main = m + 1 := by simpa using hm
    obtain ⟨b, hpw, -⟩ := performAll_transition hs (by simp [hrpre, hrpost]) hcount
      (fun b => le_length_of_drop_eq_singleton (hlast b)) hrun
    rw [hlast] at hpw
    refine ⟨_, _, hv, rfl, by rw [performAll_cfg hu],
      (performAll_append hw [.main]).trans (performAll_cons (perform_main_pclr hpw) []), rfl, rfl, fun ht => ?_⟩
    have hguard : w.dc = w.cfg.guard := performAll_keeps_guard ht hrpost rfl hw
    exact hguard.trans (by rw [performAll_cfg hrun])

/-! ### Edges after an edge -/

theorem exec_edge_dc_ne_zero {s t : State} (hg : s.cfg.guard ≠ 0#8) (h : exec .edge s = .next t) : t.dc ≠ 0#8 := by
  rw [exec_edge_dc h]
  split
  · exact hg
  · assumption

/-- 41 R110: a guarded counter is left alone by every turn but a TICK and a reset. -/
theorem perform_dc_ne_zero {a : Action} {s t : State} (ht : a ≠ .tick) (hr : a ≠ .reset) (hs : s.dc ≠ 0#8)
    (h : perform a s = .next t) : t.dc ≠ 0#8 := by
  have hdc := perform_dc_of_guarded hs hr h
  rw [List.count_singleton, if_neg (by simpa using ht), Nat.sub_zero] at hdc
  rwa [BitVec.eq_of_toNat_eq hdc]

/-- Settles O46: the first EDGE leaves `dc` not 0, the turns after it do too, and the last EDGE then writes nothing. -/
theorem edgeAfterEdgeChangesNothing : Obligations.EdgeAfterEdgeChangesNothing := by
  intro as s t hg ht hr h
  obtain ⟨u, hu, h⟩ := performAll_cons_eq h
  have hdc : t.dc ≠ 0#8 :=
    performAll_keeps (P := fun u => u.dc ≠ 0#8) (ok := fun a => a ≠ .tick ∧ a ≠ .reset)
      (fun ⟨ht, hr⟩ hs hu => perform_dc_ne_zero ht hr hs hu)
      (fun _ ha => ⟨ne_of_mem_of_not_mem ha ht, ne_of_mem_of_not_mem ha hr⟩) (exec_edge_dc_ne_zero hg hu) h
  refine ⟨_, rfl, ?_⟩
  rw [State.edgeWrite_of_guarded hdc]
  rfl

/-! ### Idling -/

/-- 44 R180: in Locked or Unlocked without an event no turn but an EDGE and a reset leaves DISPATCH; only `dc`, the
closed keys and the step log change. -/
theorem perform_idle {a : Action} {s t : State} (hp : s.phase = .dispatch)
    (hls : s.ls = LockCode.locked ∨ s.ls = LockCode.unlocked) (hb : s.pend = false) (he : a ≠ .edge) (hr : a ≠ .reset)
    (h : perform a s = .next t) : t = { s with dc := t.dc, pressed := t.pressed, stepLog := t.stepLog } := by
  cases a with
  | edge => exact absurd rfl he
  | reset => exact absurd rfl hr
  | main =>
    rw [perform_main hp, Phase.instr, exec_disp, State.dispatch_of_idle hls hb, ← hp] at h
    cases h
    rfl
  | tick =>
    rw [perform, tickLowersTheCounter.2 s] at h
    cases h
    rfl
  | press | release => cases h; rfl

/-- Settles O53: `perform_idle` at each turn of the run. -/
theorem idleWithoutButtonEvents : Obligations.IdleWithoutButtonEvents := by
  intro as s hp hls hb he hr
  obtain ⟨t, h⟩ := performAll_next as s
  refine ⟨t, h, performAll_keeps
    (P := fun u => u = { s with dc := u.dc, pressed := u.pressed, stepLog := u.stepLog })
    (ok := fun a => a ≠ .edge ∧ a ≠ .reset) ?_
    (fun _ ha => ⟨ne_of_mem_of_not_mem ha he, ne_of_mem_of_not_mem ha hr⟩) rfl h⟩
  rintro a u v ⟨he, hr⟩ hu hv
  have hidle := perform_idle (by rw [hu]; exact hp) (by rw [hu]; exact hls) (by rw [hu]; exact hb) he hr hv
  rw [hidle, hu]

end Sys2Proof.Machine

/-! 42 R130, R131: the scan as a run. MAIN's n-th step of a scan that has found no key is at `scanPhase n`; what it
finds is read off the rows its phase goes with. -/

namespace Sys2Proof.Machine

/-- What holds n turns of MAIN on, in a run of up to `N` of them, when each takes it one on and no other turn breaks
it. -/
theorem performAll_counts {P : Nat → State → Prop} {ok : Action → Prop} {N : Nat}
    (hmain : ∀ {n s t}, n < N → P n s → perform .main s = .next t → P (n + 1) t)
    (hother : ∀ {n a s t}, a ≠ .main → ok a → P n s → perform a s = .next t → P n t) {as : List Action} {s t : State}
    {n : Nat} (has : ∀ a ∈ as, ok a) (hs : P n s) (hN : n + as.count .main ≤ N) (h : performAll as s = .next t) :
    P (n + as.count .main) t := by
  induction as generalizing n s with
  | nil => cases h; exact hs
  | cons a as ih =>
    obtain ⟨u, hu, hrun⟩ := performAll_cons_eq h
    have has' : ∀ b ∈ as, ok b := fun b hb => has b (List.mem_cons_of_mem a hb)
    by_cases ha : a = .main
    · subst ha
      rw [List.count_cons_self] at hN ⊢
      rw [Nat.add_comm (as.count .main), ← Nat.add_assoc] at hN ⊢
      exact ih has' (hmain (by omega) hs hu) hN hrun
    · rw [List.count_cons_of_ne ha] at hN ⊢
      exact ih has' (hother ha (has a List.mem_cons_self) hs hu) hN hrun

/-! ### The phases of a scan -/

/-- 42 R125 to R130: MAIN's phase after n steps of a scan that has found no key. -/
def scanPhase (n : Nat) : Phase :=
  if h : n / 4 < 4 then
    match n % 4 with
    | 0 => .scanDrive ⟨n / 4, h⟩
    | 1 => .scanSettle ⟨n / 4, h⟩
    | 2 => .scanSample ⟨n / 4, h⟩
    | _ => .scanNext ⟨n / 4, h⟩
  else .dispatch

section

variable (r : Row)

theorem scanPhase_drive : scanPhase (4 * r.val) = .scanDrive r := by revert r; decide
theorem scanPhase_settle : scanPhase (4 * r.val + 1) = .scanSettle r := by revert r; decide
theorem scanPhase_sample : scanPhase (4 * r.val + 2) = .scanSample r := by revert r; decide
theorem scanPhase_next : scanPhase (4 * r.val + 3) = .scanNext r := by revert r; decide
theorem scanPhase_afterRow : scanPhase (4 * r.val + 4) = afterRow r := by revert r; decide

end

/-- The phases of the scan are four for each row. -/
theorem scanPhase_cases {n : Nat} (hn : n < 16) :
    ∃ r : Row, n = 4 * r.val ∨ n = 4 * r.val + 1 ∨ n = 4 * r.val + 2 ∨ n = 4 * r.val + 3 :=
  ⟨⟨n / 4, by omega⟩, by dsimp only; omega⟩

/-- 42 R125 to R129: MAIN's step in a scan goes on along `scanPhase`, provided a sample reads no low column. -/
theorem perform_main_scanPhase {n : Nat} {s t : State} (hn : n < 16) (hp : s.phase = scanPhase n)
    (hcol : ∀ r : Row, n = 4 * r.val + 2 → s.colIn = 0b111#3) (h : perform .main s = .next t) :
    t.phase = scanPhase (n + 1) := by
  obtain ⟨r, rfl | rfl | rfl | rfl⟩ := scanPhase_cases hn
  · rw [scanPhase_drive] at hp
    rw [perform_main hp, Phase.instr, exec_rowdrv] at h
    cases h
    exact (scanPhase_settle r).symm
  · rw [scanPhase_settle] at hp
    rw [perform_main hp, Phase.instr, exec_wait, hp] at h
    cases h
    exact (scanPhase_sample r).symm
  · rw [scanPhase_sample] at hp
    rw [perform_main hp, Phase.instr, exec_sample, hcol r rfl] at h
    cases h
    exact (scanPhase_next r).symm
  · rw [scanPhase_next] at hp
    rw [perform_main hp, Phase.instr, exec_rowrel, hp] at h
    cases h
    exact (scanPhase_afterRow r).symm

/-- 42 R130: the µops of the scan write no lock state and no buffer. -/
theorem scanPhase_instr {n : Nat} (hn : n < 16) :
    (∀ st, (scanPhase n).instr ≠ .setst st) ∧ (scanPhase n).instr ≠ .bufclr ∧ ∀ k, (scanPhase n).instr ≠ .bufapp k := by
  obtain ⟨r, rfl | rfl | rfl | rfl⟩ := scanPhase_cases hn
  · simp [scanPhase_drive, Phase.instr]
  · simp [scanPhase_settle, Phase.instr]
  · simp [scanPhase_sample, Phase.instr]
  · simp [scanPhase_next, Phase.instr]

theorem perform_rowsMatchPhase {a : Action} {s t : State} (hr : a ≠ .reset) (hs : RowsMatchPhase s)
    (h : perform a s = .next t) : RowsMatchPhase t := by
  by_cases hm : a = .main
  · subst hm
    exact exec_main_rowsMatchPhase hs h
  · exact (perform_sameMainRegs hm hr h).rowsMatchPhase hs

/-! ### No key -/

theorem colIn_all_high_iff {s : State} (h : ∀ c, ¬ ColumnContended s c) :
    s.colIn = 0b111#3 ↔ ∀ k ∈ s.pressed, s.rowOut.getLsbD k.1.val = true := by
  rw [s.colIn_all_high]
  constructor
  · exact fun hall ⟨r, c⟩ hk => (State.colLevel_of_not_contended (h c)).1 (hall c) r hk
  · exact fun hall c => (State.colLevel_of_not_contended (h c)).2 fun r hk => hall (r, c) hk

theorem colIn_of_no_key {s : State} (h : s.pressed = []) : s.colIn = 0b111#3 :=
  (colIn_all_high_iff (by simp [ColumnContended, h])).2 (by simp [h])

theorem perform_no_key {a : Action} {s t : State} (ha : ∀ k, a ≠ .press k) (hr : a ≠ .reset) (hs : s.pressed = [])
    (h : perform a s = .next t) : t.pressed = [] := by
  cases a with
  | press k => exact absurd rfl (ha k)
  | reset => exact absurd rfl hr
  | release k => cases h; simp [hs]
  | main => exact (exec_pressed h).trans hs
  | tick => exact (exec_pressed (i := .tick) h).trans hs
  | edge => exact (exec_pressed (i := .edge) h).trans hs

/-- A scan from `s₀` that found no key, n steps on: no key is closed; `ls`, `len` and the buffer are as they were. -/
structure EmptyScan (s₀ : State) (n : Nat) (s : State) : Prop where
  phase : s.phase = scanPhase n
  rows : RowsMatchPhase s
  noKey : s.pressed = []
  ls : s.ls = s₀.ls
  len : s.len = s₀.len
  buf : s.buf = s₀.buf

theorem EmptyScan.main {s₀ s t : State} {n : Nat} (hn : n < 16) (hs : EmptyScan s₀ n s)
    (h : perform .main s = .next t) : EmptyScan s₀ (n + 1) t := by
  have hexec := perform_main hs.phase ▸ h
  obtain ⟨hset, hclr, happ⟩ := scanPhase_instr hn
  exact {
    phase := perform_main_scanPhase hn hs.phase (fun _ _ => colIn_of_no_key hs.noKey) h
    rows := perform_rowsMatchPhase (by simp) hs.rows h
    noKey := perform_no_key (by simp) (by simp) hs.noKey h
    ls := (exec_ls hset hexec).trans hs.ls
    len := (exec_len hclr happ hexec).trans hs.len
    buf := (exec_buf happ hexec).trans hs.buf }

theorem EmptyScan.other {s₀ s t : State} {n : Nat} {a : Action} (hm : a ≠ .main)
    (ha : (∀ k, a ≠ .press k) ∧ a ≠ .reset) (hs : EmptyScan s₀ n s) (h : perform a s = .next t) :
    EmptyScan s₀ n t :=
  have hsame := perform_sameMainRegs hm ha.2 h
  { phase := hsame.phase.trans hs.phase
    rows := hsame.rowsMatchPhase hs.rows
    noKey := perform_no_key ha.1 ha.2 hs.noKey h
    ls := hsame.ls.trans hs.ls
    len := hsame.len.trans hs.len
    buf := hsame.buf.trans hs.buf }

/-- Settles O54: sixteen turns of MAIN along `EmptyScan`, which ends at DISPATCH with all rows high. -/
theorem scanWithNoKeyIsSixteenSteps : Obligations.ScanWithNoKeyIsSixteenSteps := by
  intro as s hp hrow hkeys hpress hr hc
  obtain ⟨t, h⟩ := performAll_next as s
  have hstart : EmptyScan s 0 s := ⟨hp, by rw [RowsMatchPhase, hrow, hp]; rfl, hkeys, rfl, rfl, rfl⟩
  have hend : EmptyScan s (0 + as.count .main) t :=
    performAll_counts EmptyScan.main EmptyScan.other
      (fun a ha => ⟨fun k => ne_of_mem_of_not_mem ha (hpress k), ne_of_mem_of_not_mem ha hr⟩) hstart (by omega) h
  rw [hc] at hend
  have hphase : t.phase = .dispatch := hend.phase
  exact ⟨t, h, hphase, hend.rows.trans (by rw [hphase]; rfl), hend.ls, hend.len, hend.buf⟩

/-! ### One key -/

theorem rowMask_getLsbD (q r : Row) : (~~~rowMask q).getLsbD r.val = true ↔ r ≠ q := by
  revert q r
  decide

section

variable {s : State} {q r : Row} {c : Col}

theorem not_contended_of_one_key (h : s.pressed = [(r, c)]) (d : Col) : ¬ ColumnContended s d := by
  rintro ⟨r', q', hne, hr', hq', -⟩
  simp only [h, List.mem_singleton, Prod.mk.injEq] at hr' hq'
  exact hne (hr'.1.trans hq'.1.symm)

/-- 42 R122: with one key closed the sample is all high exactly if the row driven low is not the key's. -/
theorem colIn_of_one_key (h : s.pressed = [(r, c)]) (hrow : s.rowOut = ~~~rowMask q) :
    s.colIn = 0b111#3 ↔ r ≠ q := by
  simp only [colIn_all_high_iff (not_contended_of_one_key h), h, hrow, rowMask_getLsbD, List.mem_singleton, forall_eq]

/-- 42 R123: with one key closed and its row driven low, its column is the first low one. -/
theorem firstLow_of_one_key (h : s.pressed = [(r, c)]) (hrow : s.rowOut = ~~~rowMask r) :
    firstLow s.colIn = some c := by
  have hcol (d : Col) : s.colIn.getLsbD d.val = true ↔ d ≠ c := by
    simp only [s.colIn_getLsbD, State.colLevel_of_not_contended (not_contended_of_one_key h d), h, hrow,
      rowMask_getLsbD, List.mem_singleton, Prod.mk.injEq]
    exact ⟨fun hr hd => hr r ⟨rfl, hd⟩ rfl, fun hd _ hr => absurd hr.2 hd⟩
  refine firstLow_eq_some_iff.2 ⟨?_, fun d hd => (hcol d).2 hd.ne⟩
  rw [← Bool.not_eq_true, hcol]
  exact fun hne => hne rfl

end

/-- 42 R131: MAIN's phase after n steps of a scan that finds the key of row r, held closed. -/
def keyScanPhase (r : Row) (k : Byte) (n : Nat) : Phase :=
  if n < 4 * r.val + 3 then scanPhase n else .scanRwait r k

/-- A scan with the one key (r, c) held closed, n steps on. -/
structure KeyScan (cfg : CfgRegs) (r : Row) (c : Col) (n : Nat) (s : State) : Prop where
  phase : s.phase = keyScanPhase r (cfg.keyAt r c) n
  rows : RowsMatchPhase s
  key : s.pressed = [(r, c)]
  cfg : s.cfg = cfg

theorem perform_main_scanRwait_of_low {s t : State} {r : Row} {k : Byte} (hp : s.phase = .scanRwait r k)
    (hcol : s.colIn ≠ 0b111#3) (h : perform .main s = .next t) : t.phase = .scanRwait r k := by
  rw [perform_main hp, Phase.instr, exec_rwait_of_low hcol] at h
  cases h
  exact hp

theorem perform_main_scanRwait_of_high {s t : State} {r : Row} {k : Byte} (hp : s.phase = .scanRwait r k)
    (hcol : s.colIn = 0b111#3) (h : perform .main s = .next t) : t.phase = .scanRet r k := by
  rw [perform_main hp, Phase.instr, exec_rwait_of_high hcol, hp] at h
  cases h
  rfl

theorem KeyScan.main_phase {cfg : CfgRegs} {r : Row} {c : Col} {n : Nat} {s t : State} (hs : KeyScan cfg r c n s)
    (h : perform .main s = .next t) : t.phase = keyScanPhase r (cfg.keyAt r c) (n + 1) := by
  have hp := hs.phase
  rw [keyScanPhase] at hp ⊢
  have hlast : r.val ≤ 3 := Nat.le_of_lt_succ r.isLt
  obtain hlt | rfl | hgt := lt_trichotomy n (4 * r.val + 2)
  · rw [if_pos (by omega)] at hp ⊢
    refine perform_main_scanPhase (by omega) hp (fun q hq => ?_) h
    rw [hq, scanPhase_sample] at hp
    refine (colIn_of_one_key hs.key (hs.rows.trans (by rw [hp]; rfl))).2 ?_
    rintro rfl
    omega
  · rw [if_pos (by omega), scanPhase_sample] at hp
    rw [if_neg (by omega)]
    rw [perform_main hp, Phase.instr, exec_sample,
      samplePhase_of_firstLow (firstLow_of_one_key hs.key (hs.rows.trans (by rw [hp]; rfl))), hs.cfg] at h
    cases h
    rfl
  · rw [if_neg (by omega)] at hp
    rw [if_neg (by omega)]
    refine perform_main_scanRwait_of_low hp (fun hcol => ?_) h
    exact (colIn_of_one_key hs.key (hs.rows.trans (by rw [hp]; rfl))).1 hcol rfl

theorem perform_pressed {a : Action} {s t : State} (ha : ∀ k, a ≠ .press k ∧ a ≠ .release k) (hr : a ≠ .reset)
    (h : perform a s = .next t) : t.pressed = s.pressed := by
  cases a with
  | press k => exact absurd rfl (ha k).1
  | release k => exact absurd rfl (ha k).2
  | reset => exact absurd rfl hr
  | main => exact exec_pressed h
  | tick => exact exec_pressed (i := .tick) h
  | edge => exact exec_pressed (i := .edge) h

theorem KeyScan.main {cfg : CfgRegs} {r : Row} {c : Col} {n : Nat} {s t : State} (hs : KeyScan cfg r c n s)
    (h : perform .main s = .next t) : KeyScan cfg r c (n + 1) t where
  phase := hs.main_phase h
  rows := perform_rowsMatchPhase (by simp) hs.rows h
  key := (perform_pressed (by simp) (by simp) h).trans hs.key
  cfg := (perform_cfg h).trans hs.cfg

theorem KeyScan.other {cfg : CfgRegs} {r : Row} {c : Col} {n : Nat} {s t : State} {a : Action} (hm : a ≠ .main)
    (ha : (∀ k, a ≠ .press k ∧ a ≠ .release k) ∧ a ≠ .reset) (hs : KeyScan cfg r c n s)
    (h : perform a s = .next t) : KeyScan cfg r c n t :=
  have hsame := perform_sameMainRegs hm ha.2 h
  { phase := hsame.phase.trans hs.phase
    rows := hsame.rowsMatchPhase hs.rows
    key := (perform_pressed ha.1 ha.2 h).trans hs.key
    cfg := hsame.cfg.trans hs.cfg }

/-- 42 R128, R129: in the release wait of row r, the release of the one closed key and two steps of MAIN end at its
character with all rows high. -/
theorem performAll_release {s : State} {r : Row} {c : Col} {k : Byte} (hp : s.phase = .scanRwait r k)
    (hrows : RowsMatchPhase s) (hkey : s.pressed = [(r, c)]) :
    ∃ u, performAll [.release (r, c), .main, .main] s = .next u ∧ u.phase = .key k ∧ u.rowOut = 0b1111#4 := by
  have hopen : (s.releaseKey (r, c)).pressed = [] := by
    refine List.eq_nil_iff_forall_not_mem.2 fun x hx => ?_
    rw [State.mem_releaseKey, hkey, List.mem_singleton] at hx
    exact hx.1 hx.2
  have hrel : perform (.release (r, c)) s = .next (s.releaseKey (r, c)) := rfl
  obtain ⟨v, hv⟩ := perform_next .main (s.releaseKey (r, c))
  obtain ⟨u, hu⟩ := perform_next .main v
  have hvp : v.phase = .scanRet r k :=
    perform_main_scanRwait_of_high (s := s.releaseKey (r, c)) hp (colIn_of_no_key hopen) hv
  have hup : u.phase = .key k := by
    rw [perform_main hvp, Phase.instr, exec_rowrel, hvp] at hu
    cases hu
    rfl
  have hur : RowsMatchPhase u :=
    perform_rowsMatchPhase (by simp) (perform_rowsMatchPhase (by simp)
      (perform_rowsMatchPhase (by simp) hrows hrel) hv) hu
  refine ⟨u, ?_, hup, hur.trans (by rw [hup]; rfl)⟩
  rw [performAll_cons hrel, performAll_cons hv, performAll_cons hu, performAll]

/-- Settles O55: the turns of MAIN along `KeyScan` end in the release wait, and `performAll_release` follows. -/
theorem scanReturnsTheClosedKey : Obligations.ScanReturnsTheClosedKey := by
  intro as s r c hp hrow hkeys hact hr hc
  obtain ⟨t, h⟩ := performAll_next as s
  have hstart : KeyScan s.cfg r c 0 s :=
    ⟨hp.trans (if_pos (Nat.succ_pos _)).symm, by rw [RowsMatchPhase, hrow, hp]; rfl, hkeys, rfl⟩
  have hend : KeyScan s.cfg r c (0 + as.count .main) t :=
    performAll_counts (P := KeyScan s.cfg r c) (fun _ => KeyScan.main) KeyScan.other
      (fun a ha => ⟨fun k => ⟨ne_of_mem_of_not_mem ha (hact k).1, ne_of_mem_of_not_mem ha (hact k).2⟩,
        ne_of_mem_of_not_mem ha hr⟩) hstart le_rfl h
  have hphase : t.phase = .scanRwait r (s.cfg.keyAt r c) := hend.phase.trans (if_neg (by omega))
  obtain ⟨u, hu, hup, hur⟩ := performAll_release hphase hend.rows hend.key
  exact ⟨t, u, h, hphase, hu, hup, hur⟩

end Sys2Proof.Machine

/-! 40 R102, 44 R186, 60 R207: what fairness and the release duty give of an infinite run. -/

namespace Sys2Proof.Machine

/-- The states of an infinite run, one for each turn. -/
theorem exists_run (σ : Nat → Action) (s : State) :
    ∃ f : Nat → State, f 0 = s ∧ (∀ n, runOf σ s n = .next (f n)) ∧ ∀ n, perform (σ n) (f n) = .next (f (n + 1)) := by
  have hnext (n : Nat) : ∃ t, runOf σ s n = .next t := by
    induction n with
    | zero => exact ⟨s, rfl⟩
    | succ n ih =>
      obtain ⟨t, ht⟩ := ih
      rw [runOf, ht]
      exact perform_next (σ n) t
  choose f hf using hnext
  refine ⟨f, ?_, hf, fun n => ?_⟩
  · exact (Host.Outcome.next.inj (hf 0)).symm
  · have hsucc := hf (n + 1)
    rwa [runOf, hf n] at hsucc

theorem runOf_eq_performAll (σ : Nat → Action) (s : State) (n : Nat) :
    runOf σ s n = performAll ((List.range n).map σ) s := by
  induction n with
  | zero => rfl
  | succ n ih =>
    obtain ⟨t, ht⟩ := performAll_next ((List.range n).map σ) s
    obtain ⟨u, hu⟩ := perform_next (σ n) t
    rw [runOf, ih, ht, List.range_succ, List.map_append, performAll_append ht, List.map_singleton, performAll_cons hu]
    exact hu

/-- A number that never rises does not fall infinitely often. -/
theorem not_falls_forever {f : Nat → Nat} (hanti : ∀ n, f (n + 1) ≤ f n) :
    ¬ ∀ n, ∃ m, n ≤ m ∧ f (m + 1) < f m := by
  intro hfalls
  obtain ⟨m, hm, hfall⟩ := hfalls (Function.argmin f)
  have hle : f m ≤ f (Function.argmin f) := antitone_nat_of_succ_le hanti hm
  exact absurd (Function.argmin_le f (m + 1)) (not_le.2 (hfall.trans_le hle))

/-! ### The guard window -/

theorem perform_reset_dc {s t : State} (h : perform .reset s = .next t) : t.dc = 0#8 := by
  cases h
  rfl

/-- Settles O56: while `dc` is not 0 it never rises (`perform_dc_of_guarded`), and it falls at every TICK. -/
theorem guardWindowEnds : Obligations.GuardWindowEnds := by
  intro σ s hfair
  obtain ⟨f, -, hrun, hstep⟩ := exists_run σ s
  by_contra hnone
  have hdc (n : Nat) : (f n).dc ≠ 0#8 := fun h => hnone ⟨n, f n, hrun n, h⟩
  have hturn (n : Nat) : (f (n + 1)).dc.toNat = (f n).dc.toNat - [σ n].count .tick :=
    perform_dc_of_guarded (hdc n) (fun hr => hdc (n + 1) (perform_reset_dc (hr ▸ hstep n))) (hstep n)
  refine not_falls_forever (f := fun n => (f n).dc.toNat) (fun n => (hturn n).trans_le (Nat.sub_le _ _)) fun n => ?_
  obtain ⟨m, hm, htick⟩ := hfair n
  refine ⟨m, hm, ?_⟩
  have hpos : 0 < (f m).dc.toNat := Nat.pos_of_ne_zero fun h => hdc m (BitVec.eq_of_toNat_eq h)
  have hfall := hturn m
  rw [htick, List.count_singleton_self] at hfall
  simp only [hfall]
  omega

/-! ### The queue -/

/-- How many of the first n turns are MAIN's. -/
def mainTurns (σ : Nat → Action) (n : Nat) : Nat := ((List.range n).map σ).count .main

theorem mainTurns_succ (σ : Nat → Action) (n : Nat) :
    mainTurns σ (n + 1) = mainTurns σ n + if σ n = .main then 1 else 0 := by
  simp [mainTurns, List.range_succ, List.count_singleton]

theorem mainEnabled_of_enqueue {s : State} {q : List SeqOp} {nxt : SeqNext} (h : s.phase = enqueue q nxt) :
    s.mainEnabled = true := by
  rw [State.mainEnabled, h]
  cases q with
  | nil => cases nxt <;> rfl
  | cons => rfl

/-- 44 R186: as long as MAIN has an enabled step, a fair MAIN takes more steps than any bound. -/
theorem exists_mainTurns_eq {σ : Nat → Action} {s : State} (hfair : MainFair σ s) {k : Nat}
    (henabled : ∀ n t, mainTurns σ n < k → runOf σ s n = .next t → t.mainEnabled = true) :
    ∃ n, mainTurns σ n = k := by
  by_contra hnone
  have hlt (n : Nat) : mainTurns σ n < k := by
    induction n with
    | zero => exact Nat.pos_of_ne_zero fun h => hnone ⟨0, h.symm⟩
    | succ n ih =>
      have hne : mainTurns σ (n + 1) ≠ k := fun h => hnone ⟨n + 1, h⟩
      have hsucc := mainTurns_succ σ n
      split at hsucc <;> omega
  obtain ⟨f, -, hrun, -⟩ := exists_run σ s
  have hforever : MainStepsForever σ s := hfair fun ⟨n, hheld⟩ =>
    Bool.false_ne_true ((hheld n (f n) le_rfl (hrun n)).symm.trans (henabled n (f n) (hlt n) (hrun n)))
  refine not_falls_forever (f := fun n => k - mainTurns σ n) (fun n => ?_) fun n => ?_
  · have hsucc := mainTurns_succ σ n
    omega
  · obtain ⟨m, -, hm, hmain, -⟩ := hforever n
    have hsucc := mainTurns_succ σ m
    rw [if_pos hmain] at hsucc
    have hmore := hlt m
    exact ⟨m, hm, by omega⟩

/-- Settles O57: until its last µop is done a queue keeps MAIN enabled, so a fair MAIN gets to its end. -/
theorem queueDrainsUnderFairMain : Obligations.QueueDrainsUnderFairMain := by
  intro σ s u q nxt hfair hreset hp hq
  have hqueue {n : Nat} {t : State} (hn : mainTurns σ n ≤ (u :: q).length) (h : runOf σ s n = .next t) :
      t.phase = enqueue ((u :: q).drop (mainTurns σ n)) nxt := by
    rw [runOf_eq_performAll] at h
    refine (performAll_queue hp hq ?_ hn h).1
    simpa using fun n _ => hreset n
  obtain ⟨n, hn⟩ := exists_mainTurns_eq hfair (k := (u :: q).length)
    fun n t hlt h => mainEnabled_of_enqueue (hqueue hlt.le h)
  obtain ⟨f, -, hrun, -⟩ := exists_run σ s
  have hend := hqueue hn.le (hrun n)
  rw [hn, List.drop_length, enqueue_nil] at hend
  exact ⟨n, f n, hrun n, fun h => by rw [hend, h]; rfl, fun h => by rw [hend, h]; rfl⟩

/-! ### The release wait -/

theorem perform_pressed_subset {a : Action} {s t : State} (ha : ∀ k, a ≠ .press k) (hr : a ≠ .reset)
    (h : perform a s = .next t) : t.pressed ⊆ s.pressed := by
  by_cases hrel : ∃ k, a = .release k
  · obtain ⟨k, rfl⟩ := hrel
    cases h
    exact fun x hx => ((s.mem_releaseKey k x).1 hx).2
  · rw [perform_pressed (fun k => ⟨ha k, fun hk => hrel ⟨k, hk⟩⟩) hr h]
    exact List.Subset.refl _

/-- 60 R207: with every closed key eventually opened and none closed from some turn on, no key is closed in the end. -/
theorem exists_no_key {f : Nat → State} {last : Nat}
    (hopens : ∀ n k, k ∈ (f n).pressed → ∃ m, n ≤ m ∧ k ∉ (f m).pressed)
    (hsub : ∀ n, last ≤ n → (f (n + 1)).pressed ⊆ (f n).pressed) : ∃ N, ∀ n, N ≤ n → (f n).pressed = [] := by
  have hkey (k : Key) : ∃ N, ∀ n, N ≤ n → k ∉ (f n).pressed := by
    obtain ⟨m, hm, hk⟩ : ∃ m, last ≤ m ∧ k ∉ (f m).pressed := by
      by_cases hk : k ∈ (f last).pressed
      · exact hopens last k hk
      · exact ⟨last, le_rfl, hk⟩
    refine ⟨m, fun n hn => ?_⟩
    induction n, hn using Nat.le_induction with
    | base => exact hk
    | succ n hn ih => exact fun hmem => ih (hsub n (hm.trans hn) hmem)
  choose N hN using hkey
  refine ⟨Finset.univ.sup N, fun n hn => List.eq_nil_iff_forall_not_mem.2 fun k => ?_⟩
  exact hN k n ((Finset.le_sup (Finset.mem_univ k)).trans hn)

theorem mainEnabled_of_no_key {s : State} (h : s.pressed = []) : s.mainEnabled = true := by
  unfold State.mainEnabled
  split
  · exact s.canReadAllHigh_iff.2 ⟨s.choices, colIn_of_no_key h⟩
  · rfl

/-- Settles O58: in the end no key is closed, so MAIN is not held for ever, and its next turn passes the wait. -/
theorem releaseWaitEndsUnderReleaseDuty : Obligations.ReleaseWaitEndsUnderReleaseDuty := by
  intro σ s r k last hfair hduty hreset hpress hp
  obtain ⟨f, hzero, hrun, hstep⟩ := exists_run σ s
  by_contra hnone
  have hret (n : Nat) : (f n).phase ≠ .scanRet r k := fun h => hnone ⟨n, f n, hrun n, h⟩
  have hmain {n : Nat} (hw : (f n).phase = .scanRwait r k) (hm : σ n = .main) : (f n).colIn ≠ 0b111#3 := fun hcol =>
    hret (n + 1) (perform_main_scanRwait_of_high hw hcol (hm ▸ hstep n))
  have hwait (n : Nat) : (f n).phase = .scanRwait r k := by
    induction n with
    | zero => rw [hzero, hp]
    | succ n ih =>
      by_cases hm : σ n = .main
      · exact perform_main_scanRwait_of_low ih (hmain ih hm) (hm ▸ hstep n)
      · exact (perform_sameMainRegs hm (hreset n) (hstep n)).phase.trans ih
  obtain ⟨N, hN⟩ : ∃ N, ∀ n, N ≤ n → (f n).pressed = [] := by
    refine exists_no_key (last := last) (fun n x hx => ?_)
      fun n hn => perform_pressed_subset (fun x => hpress n x hn) (hreset n) (hstep n)
    obtain ⟨m, u, hm, hu, hx⟩ := hduty n (f n) x (hrun n) hx
    obtain rfl := Host.Outcome.next.inj ((hrun m).symm.trans hu)
    exact ⟨m, hm, hx⟩
  have hforever : MainStepsForever σ s := hfair fun ⟨n, hheld⟩ =>
    Bool.false_ne_true ((hheld (max n N) _ (le_max_left _ _) (hrun _)).symm.trans
      (mainEnabled_of_no_key (hN _ (le_max_right _ _))))
  obtain ⟨m, -, hm, hturn, -⟩ := hforever N
  exact hmain (hwait m) hturn (colIn_of_no_key (hN m hm))

end Sys2Proof.Machine

/-! 70 R247, R248, 40 R104: the timed runs. Ticks lie a period apart, so a stretch shorter than a period holds at most
one, and the GUARD-th tick after an accepted edge is the one that ends the window. -/

namespace Sys2Proof.Machine

/-! ### The times of a run's turns -/

theorem length_timesOf (a : Action) (l : List (Time × Action)) : (timesOf a l).length = (l.map (·.2)).count a := by
  rw [timesOf, List.length_map, List.count, List.countP_map, List.countP_eq_length_filter]
  rfl

theorem mem_timesOf {a : Action} {l : List (Time × Action)} {x : Time} : x ∈ timesOf a l ↔ (x, a) ∈ l := by
  simp [timesOf]

theorem eq_append_of_timesOf {a : Action} {l : List (Time × Action)} {xs ys : List Time} {x : Time}
    (h : timesOf a l = xs ++ x :: ys) : ∃ pre post, l = pre ++ (x, a) :: post ∧ timesOf a pre = xs := by
  obtain ⟨k, m, hl, rfl, hm⟩ := List.map_eq_append_iff.1 h
  obtain ⟨⟨y, b⟩, m, rfl, rfl, -⟩ := List.map_eq_cons_iff.1 hm
  obtain ⟨l₁, l₂, rfl, rfl, hl₂⟩ := List.filter_eq_append_iff.1 hl
  obtain ⟨l₃, l₄, rfl, hnone, hb, -⟩ := List.filter_eq_cons_iff.1 hl₂
  obtain rfl : b = a := by simpa using hb
  refine ⟨l₁ ++ l₃, l₄, by simp, ?_⟩
  rw [timesOf, List.filter_append, List.filter_eq_nil_iff.2 hnone, List.append_nil]

theorem length_tickTimes (first period : Time) (n : Nat) : (tickTimes first period n).length = n := by
  simp [tickTimes]

theorem tickTimes_eq_append (first period : Time) {m n : Nat} (h : m < n) :
    ∃ xs ys, tickTimes first period n = xs ++ (first + m * period) :: ys ∧ xs.length = m := by
  have hlen : m < (tickTimes first period n).length := by rwa [length_tickTimes]
  refine ⟨(tickTimes first period n).take m, (tickTimes first period n).drop (m + 1), ?_, ?_⟩
  · have hget : (tickTimes first period n)[m] = first + m * period := by simp [tickTimes]
    rw [← hget, ← List.drop_eq_getElem_cons hlen, List.take_append_drop]
  · exact List.length_take_of_le hlen.le

/-- 70 R247: a tick is a period or more after the ticks before it. -/
theorem tickTimes_apart {first period : Time} (hp : 0 < period) (n : Nat) :
    (tickTimes first period n).Pairwise (fun x y => x + period ≤ y) := by
  refine List.pairwise_map.2 (List.pairwise_lt_range.imp fun {i j} hij => ?_)
  have hsucc : ((i : Time) + 1) * period ≤ j * period :=
    mul_le_mul_of_nonneg_right (by exact_mod_cast hij) hp.le
  linarith

theorem length_le_one_of_apart {times : List Time} {period x y : Time}
    (h : times.Pairwise (fun a b => a + period ≤ b)) (hin : ∀ t ∈ times, x ≤ t ∧ t ≤ y) (hxy : y < x + period) :
    times.length ≤ 1 := by
  match times, h with
  | [], _ => exact Nat.zero_le 1
  | [_], _ => exact le_rfl
  | a :: b :: _, h =>
    have hab : a + period ≤ b := (List.pairwise_cons.1 h).1 b List.mem_cons_self
    have ha := (hin a (by simp)).1
    have hb := (hin b (by simp)).2
    linarith

section

variable {l : List (Time × Action)} {s t : State} {since start finish : Time}

theorem TimedRun.period_pos (h : TimedRun l s t since start finish) : 0 < s.cfg.tickMs := by
  obtain ⟨first, n, hlt, hle, -⟩ := h.ticks
  linarith

/-- 70 R248: fewer than two ticks come between two turns less than a period apart. -/
theorem TimedRun.ticks_between_le_one (h : TimedRun l s t since start finish) {pre mid post : List (Time × Action)}
    {x y : Time} {a b : Action} (hl : l = pre ++ (x, a) :: mid ++ (y, b) :: post) (hxy : y < x + s.cfg.tickMs) :
    (mid.map (·.2)).count .tick ≤ 1 := by
  obtain ⟨first, n, -, -, htimes, -⟩ := h.ticks
  have hapart := tickTimes_apart (first := first) h.period_pos n
  have hrising := h.rising
  have hmid : mid.Sublist l := by
    rw [hl]
    exact ((List.sublist_cons_self _ _).trans (List.sublist_append_right _ _)).trans (List.sublist_append_left _ _)
  rw [← htimes] at hapart
  rw [← length_timesOf]
  refine length_le_one_of_apart (hapart.sublist ((hmid.filter _).map _)) (fun z hz => ?_) hxy
  rw [mem_timesOf] at hz
  rw [hl, List.pairwise_append] at hrising
  obtain ⟨hleft, -, hcross⟩ := hrising
  rw [List.pairwise_append, List.pairwise_cons] at hleft
  obtain ⟨-, ⟨hafter, -⟩, -⟩ := hleft
  exact ⟨hafter _ hz, hcross _ (List.mem_append_right _ (List.mem_cons_of_mem _ hz)) _ List.mem_cons_self⟩

end

/-! ### Edges within a period -/

theorem acceptedEdges_append {as : List Action} {s u : State} (h : performAll as s = .next u) (bs : List Action) :
    acceptedEdges (as ++ bs) s = acceptedEdges as s + acceptedEdges bs u := by
  induction as generalizing s with
  | nil => cases h; exact (Nat.zero_add _).symm
  | cons a as ih =>
    obtain ⟨v, hv, hrun⟩ := performAll_cons_eq h
    rw [List.cons_append, acceptedEdges_cons hv, acceptedEdges_cons hv, ih hrun, Nat.add_assoc]

theorem acceptedEdges_le_count (as : List Action) (s : State) : acceptedEdges as s ≤ as.count .edge := by
  induction as generalizing s with
  | nil => exact le_rfl
  | cons a as ih =>
    obtain ⟨v, hv⟩ := perform_next a s
    have hrest := ih v
    rw [acceptedEdges_cons hv, List.count_cons]
    by_cases ha : a = .edge
    · simp only [ha, beq_self_eq_true, if_true, true_and]
      split <;> omega
    · simpa [ha] using hrest

/-- A list with two or more of an element runs from a first one to a last one. -/
theorem exists_first_last_of_two_le_count {a : Action} {as : List Action} (h : 2 ≤ as.count a) :
    ∃ pre mid post, as = pre ++ a :: mid ++ a :: post ∧ a ∉ pre ∧ a ∉ post := by
  obtain ⟨bs, cs, rfl, hbs⟩ := exists_append_of_le_count (a := a) (n := as.count a - 1) (as := as) (by omega)
  rw [List.count_append] at h hbs
  have hfirst : a ∈ bs := List.count_pos_iff.1 (by omega)
  have hlast : a ∈ cs := List.count_pos_iff.1 (by omega)
  obtain ⟨pre, mid, rfl, hpre⟩ := List.eq_append_cons_of_mem hfirst
  obtain ⟨mid', post, rfl, hmid'⟩ := List.eq_append_cons_of_mem hlast
  refine ⟨pre, mid ++ mid', post, by simp, hpre, fun hpost => ?_⟩
  have hmore : 0 < post.count a := List.count_pos_iff.2 hpost
  rw [List.count_append, List.count_cons_self] at h hbs
  simp only [List.count_append, List.count_cons_self] at hbs
  omega

section

variable {l : List (Time × Action)} {s t : State} {since start finish : Time}

/-- 70 R248: of the edges from one to another less than a period later, with GUARD at least 2 at most one is accepted,
and exactly one if the first finds `dc` 0. -/
theorem TimedRun.acceptedEdges_between (h : TimedRun l s t since start finish) {pre mid post : List (Time × Action)}
    {x y : Time} (hl : l = pre ++ (x, .edge) :: mid ++ (y, .edge) :: post) (hxy : y < x + s.cfg.tickMs)
    (hg : 2 ≤ s.cfg.guard.toNat) {u : State} (hu : performAll (pre.map (·.2)) s = .next u) :
    acceptedEdges (.edge :: mid.map (·.2) ++ [.edge]) u ≤ 1 ∧
      (u.dc = 0#8 → acceptedEdges (.edge :: mid.map (·.2) ++ [.edge]) u = 1) := by
  have hticks := h.ticks_between_le_one hl hxy
  have hreset : .reset ∉ mid.map (·.2) := fun hmem => h.noReset (by
    rw [hl, List.map_append, List.map_append, List.map_cons]
    exact List.mem_append_left _ (List.mem_append_right _ (List.mem_cons_of_mem _ hmem)))
  rw [← performAll_cfg hu] at hg
  have hcount : (mid.map (·.2) ++ [Action.edge]).count .tick < u.cfg.guard.toNat := by
    rw [List.count_append]
    exact lt_of_le_of_lt hticks hg
  constructor
  · exact acceptedEdges_le_one _ u (by simpa using hreset) (by simpa using hcount)
  · exact acceptedEdges_edge_cons (by simpa using hreset) hcount

/-- 70 R248: a run whose edges all lie within a period accepts at most one, by the first and the last of them. -/
theorem TimedRun.acceptedEdges_le_one (h : TimedRun l s t since start finish) (hg : 2 ≤ s.cfg.guard.toNat)
    (hclose : ∀ x ∈ timesOf .edge l, ∀ y ∈ timesOf .edge l, y < x + s.cfg.tickMs) :
    acceptedEdges (l.map (·.2)) s ≤ 1 := by
  by_cases hfew : (l.map (·.2)).count .edge ≤ 1
  · exact (acceptedEdges_le_count _ s).trans hfew
  obtain ⟨preA, midA, postA, hl, hpre, hpost⟩ := exists_first_last_of_two_le_count (not_le.1 hfew)
  obtain ⟨m, post', rfl, hm, hpost'⟩ := List.map_eq_append_iff.1 hl
  obtain ⟨pre, mid', rfl, rfl, hmid'⟩ := List.map_eq_append_iff.1 hm
  obtain ⟨⟨x, a⟩, mid, rfl, rfl, rfl⟩ := List.map_eq_cons_iff.1 hmid'
  obtain ⟨⟨y, b⟩, post, rfl, rfl, rfl⟩ := List.map_eq_cons_iff.1 hpost'
  have hxy := hclose x (mem_timesOf.2 (by simp)) y (mem_timesOf.2 (by simp))
  obtain ⟨u, hu⟩ := performAll_next (pre.map (·.2)) s
  obtain ⟨v, hv⟩ := performAll_next (.edge :: mid.map (·.2) ++ [.edge]) u
  obtain ⟨hbetween, -⟩ := h.acceptedEdges_between rfl hxy hg hu
  have hbefore : acceptedEdges (pre.map (·.2)) s ≤ 0 :=
    (acceptedEdges_le_count _ s).trans_eq (List.count_eq_zero.2 hpre)
  have hafter : acceptedEdges (post.map (·.2)) v ≤ 0 :=
    (acceptedEdges_le_count _ v).trans_eq (List.count_eq_zero.2 hpost)
  have hsplit : (pre ++ (x, .edge) :: mid ++ (y, .edge) :: post).map (·.2) =
      pre.map (·.2) ++ ((.edge :: mid.map (·.2) ++ [.edge]) ++ post.map (·.2)) := by simp
  rw [hsplit, acceptedEdges_append hu, acceptedEdges_append hv]
  omega

end

/-- Settles O59: `TimedRun.ticks_between_le_one`, `TimedRun.acceptedEdges_between` and
`TimedRun.acceptedEdges_le_one`. -/
theorem edgesWithinAPeriodGiveAtMostOneEvent : Obligations.EdgesWithinAPeriodGiveAtMostOneEvent := by
  intro l s t since start finish h
  refine ⟨fun pre mid post x y hl hxy => ⟨h.ticks_between_le_one hl hxy, fun hg u hu => ?_⟩, h.acceptedEdges_le_one⟩
  exact h.acceptedEdges_between hl hxy hg hu

/-! ### The guard window -/

/-- 40 R103, 41 R110: a run with fewer ticks than the counter holds takes them off it, edges or not. -/
theorem performAll_dc_of_guarded {as : List Action} {s t : State} (hr : .reset ∉ as)
    (hc : as.count .tick < s.dc.toNat) (h : performAll as s = .next t) : t.dc.toNat = s.dc.toNat - as.count .tick := by
  induction as generalizing s with
  | nil => cases h; rfl
  | cons a as ih =>
    obtain ⟨u, hu, hrun⟩ := performAll_cons_eq h
    obtain ⟨har, hr⟩ := List.ne_and_not_mem_of_not_mem_cons hr
    have hcount : (a :: as).count .tick = [a].count .tick + as.count .tick := List.count_append (l₁ := [a])
    have hturn := perform_dc_of_guarded (fun h => by simp [h] at hc) har.symm hu
    rw [ih hr (by omega) hrun]
    omega

theorem performAll_dc_ne_zero {as : List Action} {s t : State} (hr : .reset ∉ as) (hc : as.count .tick < s.dc.toNat)
    (h : performAll as s = .next t) : t.dc ≠ 0#8 := by
  intro hz
  have hdc := performAll_dc_of_guarded hr hc h
  rw [hz] at hdc
  simp at hdc
  omega

/-- 40 R104: after a run with one tick fewer than the counter holds, a TICK brings it to 0, and nothing did before. -/
theorem performAll_tick_ends_window {as : List Action} {s : State} (hr : .reset ∉ as)
    (hc : as.count .tick + 1 = s.dc.toNat) :
    ∃ u v, performAll as s = .next u ∧ perform .tick u = .next v ∧ v.dc = 0#8 ∧
      ∀ bs w, bs <+: as → performAll bs s = .next w → w.dc ≠ 0#8 := by
  obtain ⟨u, hu⟩ := performAll_next as s
  obtain ⟨v, hv⟩ := perform_next .tick u
  have hdc := performAll_dc_of_guarded hr (by omega) hu
  have hlast := exec_tick_dc hv
  refine ⟨u, v, hu, hv, BitVec.eq_of_toNat_eq (by rw [hlast, hdc, ← hc]; simp), fun bs w hbs hw => ?_⟩
  have hcount : bs.count .tick ≤ as.count .tick := hbs.sublist.count_le _
  exact performAll_dc_ne_zero (fun hmem => hr (hbs.subset hmem)) (by omega) hw

section

variable {l : List (Time × Action)} {s t : State} {since start finish : Time}

theorem TimedRun.count_tick {first : Time} {n : Nat} (htimes : timesOf .tick l = tickTimes first s.cfg.tickMs n) :
    (l.map (·.2)).count .tick = n := by
  rw [← length_timesOf, htimes, length_tickTimes]

/-- 40 R104: before the tick that is m periods after the first the run has m ticks or fewer. -/
theorem TimedRun.ticks_le_of_finish_lt (h : TimedRun l s t since start finish) {first : Time} {n m : Nat}
    (htimes : timesOf .tick l = tickTimes first s.cfg.tickMs n) (hfinish : finish < first + m * s.cfg.tickMs) :
    n ≤ m := by
  by_contra hmn
  obtain ⟨xs, ys, happend, -⟩ := tickTimes_eq_append first s.cfg.tickMs (not_le.1 hmn)
  have hmem : (first + m * s.cfg.tickMs, Action.tick) ∈ l := mem_timesOf.1 (by rw [htimes, happend]; simp)
  exact absurd (h.within _ hmem).2 (not_le.2 hfinish)

/-- 40 R104: once the time m periods after the first tick has come, the run has a tick at it, with m ticks before. -/
theorem TimedRun.tick_at (h : TimedRun l s t since start finish) {first : Time} {n m : Nat}
    (htimes : timesOf .tick l = tickTimes first s.cfg.tickMs n) (hn : finish < first + n * s.cfg.tickMs)
    (hm : first + m * s.cfg.tickMs ≤ finish) :
    ∃ pre post, l = pre ++ (first + m * s.cfg.tickMs, .tick) :: post ∧ (pre.map (·.2)).count .tick = m := by
  have hlt : (m : Time) < n := lt_of_mul_lt_mul_right (by linarith) h.period_pos.le
  obtain ⟨xs, ys, happend, hxs⟩ := tickTimes_eq_append first s.cfg.tickMs (m := m) (n := n) (by exact_mod_cast hlt)
  obtain ⟨pre, post, hl, hpre⟩ := eq_append_of_timesOf (htimes.trans happend)
  exact ⟨pre, post, hl, by rw [← length_timesOf, hpre, hxs]⟩

end

/-- Settles O60: the counter is at GUARD after the accepted edge, each tick takes one off it, and the GUARD-th tick is
GUARD - 1 periods after the first. -/
theorem guardWindowLastsGuardTicks : Obligations.GuardWindowLastsGuardTicks := by
  intro l r s t since t0 finish hd hg hedge h
  have hcfg : s.cfg = r.cfg := perform_cfg hedge
  have hdc : s.dc = r.cfg.guard := (exec_edge_dc hedge).trans (if_pos hd)
  rw [← hcfg] at hg hdc ⊢
  obtain ⟨m, hm⟩ : ∃ m, s.cfg.guard.toNat = m + 1 :=
    Nat.exists_eq_succ_of_ne_zero fun hz => hg (BitVec.eq_of_toNat_eq hz)
  have hguard : (s.cfg.guard.toNat : Time) = m + 1 := by rw [hm]; push_cast; rfl
  rw [← hdc] at hm
  have hnoReset := h.noReset
  obtain ⟨first, n, hfirst, hdue, htimes, hfinish⟩ := h.ticks
  rw [hguard, add_sub_cancel_right]
  refine ⟨first, first + m * s.cfg.tickMs, hfirst, hdue, ?_, rfl, by linarith, by linarith, fun hbefore => ?_,
    fun hafter => ?_⟩
  · intro x hx
    rw [htimes] at hx
    cases n with
    | zero => cases hx
    | succ n => simpa [tickTimes, List.range_succ_eq_map] using hx.symm
  · have hticks := h.ticks_le_of_finish_lt htimes hbefore
    refine performAll_dc_ne_zero hnoReset ?_ h.run
    rw [TimedRun.count_tick htimes]
    omega
  · obtain ⟨pre, post, hl, hpre⟩ := h.tick_at htimes hfinish hafter
    rw [hl, List.map_append, List.mem_append, not_or] at hnoReset
    obtain ⟨u, v, hu, hv, hzero, hprefix⟩ := performAll_tick_ends_window (s := s) hnoReset.1 (by omega)
    exact ⟨pre, post, u, v, hl, by rw [hpre, ← hm, hdc], hu, hv, hzero, fun p w hp => hprefix _ w (hp.map _)⟩

end Sys2Proof.Machine
